-- ==== Sys2Proof/Word.lean ====
section
/-! DEFINITION. The two widths of data of the core: the byte, the unit of addressing (spec/20_memory.md R60),
and the 16-bit word of a general register, of IP, of a segment register and of an offset (spec/00_scope.md R4,
XLEN). Helpers over them stand in Machine/Bits.lean. -/

namespace Sys2Proof

/-- A byte: 8 bits (20_memory.md R60). -/
abbrev Byte := BitVec 8

/-- A word: 16 bits, `XLEN` of 00_scope.md R4. -/
abbrev Word := BitVec 16

end Sys2Proof
end

