-- ==== Sys2Proof/Syntax.lean ====
section
/-! DEFINITION. The instructions as terms: one constructor of `Instr` for each of the 66 rows of
spec/opcode_table.json (spec/30_encoding.md R114, R115), with its operands decoded. Register numbers and
addressing modes are named here and no raw encoding passes beyond the decoder. -/

namespace Sys2Proof

/-- The eight 16-bit general registers, in index order (10_state.md R21). -/
inductive Reg16 where
  | ax | cx | dx | bx | sp | bp | si | di
  deriving DecidableEq, Repr

/-- The eight 8-bit registers, in index order: halves of AX, CX, DX, BX (10_state.md R22). -/
inductive Reg8 where
  | al | cl | dl | bl | ah | ch | dh | bh
  deriving DecidableEq, Repr

/-- The four segment registers (10_state.md R29). -/
inductive Seg where
  | cs | ds | es | ss
  deriving DecidableEq, Repr

/-- The base of a memory operand, in the order of the ModRM `rm` values 000 to 111 (30_encoding.md R105). -/
inductive Base where
  | bxSi | bxDi | bpSi | bpDi | si | di | bp | bx
  deriving DecidableEq, Repr

/-- A memory operand (30_encoding.md R105): the direct offset (`mod` = 00, `rm` = 110), or a base with no, an
8-bit or a 16-bit displacement (`mod` = 00, 01, 10). The `mod` used is kept, since `[BX]` and `[BX+0]` are
different encodings (R120) and the parameter `AM_SUPPORTED` may tell them apart (R117). -/
inductive MemOp where
  | direct (off : Word)
  | base (b : Base)
  | disp8 (b : Base) (d : Byte)
  | disp16 (b : Base) (d : Word)
  deriving DecidableEq, Repr

/-- An `r/m` operand: a register (`mod` = 11) or a memory operand (30_encoding.md R105). -/
inductive RM (ρ : Type) where
  | reg (r : ρ)
  | mem (m : MemOp)
  deriving DecidableEq, Repr

/-- An `r/m8` operand. -/
abbrev RM8 := RM Reg8

/-- An `r/m16` operand. -/
abbrev RM16 := RM Reg16

/-- The instructions, one constructor a row of spec/opcode_table.json. -/
inductive Instr where
  -- MOV (40_mov.md R151 to R162)
  | movRm8R8 (dst : RM8) (src : Reg8)
  | movRm16R16 (dst : RM16) (src : Reg16)
  | movR8Rm8 (dst : Reg8) (src : RM8)
  | movR16Rm16 (dst : Reg16) (src : RM16)
  | movAlOff (off : Word)
  | movAxOff (off : Word)
  | movOffAl (off : Word)
  | movOffAx (off : Word)
  | movR8Imm8 (dst : Reg8) (imm : Byte)
  | movR16Imm16 (dst : Reg16) (imm : Word)
  | movRm8Imm8 (dst : RM8) (imm : Byte)
  | movRm16Imm16 (dst : RM16) (imm : Word)
  -- ADD (41_add_sub_mul_div.md R183 to R191)
  | addRm8R8 (dst : RM8) (src : Reg8)
  | addRm16R16 (dst : RM16) (src : Reg16)
  | addR8Rm8 (dst : Reg8) (src : RM8)
  | addR16Rm16 (dst : Reg16) (src : RM16)
  | addAlImm8 (imm : Byte)
  | addAxImm16 (imm : Word)
  | addRm8Imm8 (dst : RM8) (imm : Byte)
  | addRm16Imm16 (dst : RM16) (imm : Word)
  | addRm16Imm8 (dst : RM16) (imm : Byte)
  -- SUB (41_add_sub_mul_div.md R192 to R200)
  | subRm8R8 (dst : RM8) (src : Reg8)
  | subRm16R16 (dst : RM16) (src : Reg16)
  | subR8Rm8 (dst : Reg8) (src : RM8)
  | subR16Rm16 (dst : Reg16) (src : RM16)
  | subAlImm8 (imm : Byte)
  | subAxImm16 (imm : Word)
  | subRm8Imm8 (dst : RM8) (imm : Byte)
  | subRm16Imm16 (dst : RM16) (imm : Word)
  | subRm16Imm8 (dst : RM16) (imm : Byte)
  -- MUL, DIV, IDIV (41_add_sub_mul_div.md R201 to R206)
  | mulRm8 (src : RM8)
  | mulRm16 (src : RM16)
  | divRm8 (src : RM8)
  | divRm16 (src : RM16)
  | idivRm8 (src : RM8)
  | idivRm16 (src : RM16)
  -- INC, DEC (42_inc_dec.md R231 to R236)
  | incR16 (dst : Reg16)
  | decR16 (dst : Reg16)
  | incRm8 (dst : RM8)
  | decRm8 (dst : RM8)
  | incRm16 (dst : RM16)
  | decRm16 (dst : RM16)
  -- JMP, conditional jumps, LOOP (43_jumps_loop.md R251 to R268)
  | jmpRel8 (rel : Byte)
  | jmpRel16 (rel : Word)
  | jo (rel : Byte)
  | jno (rel : Byte)
  | jc (rel : Byte)
  | jnc (rel : Byte)
  | jz (rel : Byte)
  | jnz (rel : Byte)
  | jna (rel : Byte)
  | ja (rel : Byte)
  | js (rel : Byte)
  | jns (rel : Byte)
  | jl (rel : Byte)
  | jge (rel : Byte)
  | jle (rel : Byte)
  | jg (rel : Byte)
  | loop (rel : Byte)
  -- PUSH, POP, CALL, RET (44_stack_call_ret.md R292 to R295)
  | pushR16 (src : Reg16)
  | popR16 (dst : Reg16)
  | callRel16 (rel : Word)
  | ret
  -- INT, IRET, the marker no-operation (45_int_iret.md R320, R323, R324)
  | int (vector : Byte)
  | iret
  | nop
  deriving DecidableEq, Repr

end Sys2Proof
end

