-- ==== Sys2Proof/Config.lean ====
section
/-! DEFINITION. What an instance of this hardware fixes: the OPEN parameters of spec/00_scope.md R4, as plain
data, with the defaults the spec suggests; and the one free value of the model, the flag value `any()` draws
(00_scope.md R9, 41_add_sub_mul_div.md R207). The state carries a `Config` that no step changes
(notes/assumptions/1.md). -/

namespace Sys2Proof

/-- A question the parameter `EVENT_OF` may ask (00_scope.md R4; 45_int_iret.md R322): is the vector, or a register
of the register file (R2), this value; is a flag set. -/
inductive EventTest where
  | vectorIs (v : Byte)
  | reg8Is (r : Reg8) (v : Byte)
  | reg16Is (r : Reg16) (v : Word)
  | segIs (g : Seg) (v : Word)
  | ipIs (v : Word)
  | cfSet
  | zfSet
  | sfSet
  | ofSet
  | idfSet
  deriving DecidableEq, Repr

/-- The parameter `EVENT_OF` (00_scope.md R4; 45_int_iret.md R322) as plain data, a decision tree: no event, a
given character printed, the character in an 8-bit register printed, or a question and what follows each answer.
Every function from the vector and the register file to an optional event is such a tree
(`Sys2Proof.Machine.eventChoice_complete`; notes/assumptions/5.md). DESIGN CHOICE. -/
inductive EventChoice where
  | nothing
  | print (character : Byte)
  | printReg (r : Reg8)
  | test (question : EventTest) (yes no : EventChoice)
  deriving DecidableEq, Repr

/-- The OPEN parameters of 00_scope.md R4. `STOP` is not here: it is an argument of the host's run
(70_reset_and_hazards.md R396). -/
structure Config where
  /-- `ENTRY`: the offset at which execution starts. -/
  entry : Word
  /-- `SP_RESET`: SP after reset. -/
  spReset : Word
  /-- `SEG_SCALE` modulo 2^16, which is all that 20_memory.md R61 uses of it. -/
  segScale : Word
  /-- `BIOS_SEG`: the segment `INT` loads into CS. -/
  biosSeg : Word
  /-- `INT10_OFF`: the offset `INT 0x10` loads into IP. -/
  int10Off : Word
  /-- `INT21_OFF`: the offset `INT 0x21` loads into IP. -/
  int21Off : Word
  /-- `MARKER_OPCODE`: the one-byte marker instruction. -/
  markerOpcode : Byte
  /-- `AM_SUPPORTED`, given by the pairs (opcode byte, ModRM byte) for which it is FALSE
  (30_encoding.md R117; notes/assumptions/6.md). -/
  amUnsupported : List (Byte × Byte)
  /-- `EVENT_OF`. -/
  eventChoice : EventChoice
  deriving DecidableEq, Repr

/-- The defaults of 00_scope.md R4: the values every derived vector of 95_test_vectors.md uses. They have no
authority of the document behind them (92_eei_decisions.md). UNVERIFIED (notes/assumptions/7.md). -/
def Config.default : Config where
  entry := 0x0100#16
  spReset := 0xFFFE#16
  segScale := 16#16
  biosSeg := 0xF400#16
  int10Off := 0x0190#16
  int21Off := 0x0200#16
  markerOpcode := 0x90#8
  amUnsupported := []
  eventChoice := .test (.vectorIs 0x21#8) (.test (.reg8Is .ah 0x02#8) (.printReg .dl) .nothing) .nothing

/-- The value `any()` of a flag the rules leave undefined (00_scope.md R9; 41_add_sub_mul_div.md R207), for
each draw of a run. It has no body: nothing can be proved of its values. Free value
(notes/assumptions/3.md). -/
opaque Config.freeFlag : Nat → Bool

end Sys2Proof
end

