-- ==== Sys2Proof/Machine/Bits.lean ====
section
/-! DEFINITION. The bit-field, byte-order and extension helpers every later file uses: the low and high byte of
a word, the word of two bytes, sign and zero extension (spec/00_scope.md R7, R8; spec/20_memory.md R63). -/

namespace Sys2Proof

/-- `w[7:0]`. -/
def lo8 (w : Word) : Byte := w.extractLsb' 0 8

/-- `w[15:8]`. -/
def hi8 (w : Word) : Byte := w.extractLsb' 8 8

/-- `{high, low}`: the word whose high byte is the first argument (00_scope.md R7). -/
def mkWord (high low : Byte) : Word := high ++ low

/-- `sext_16(v)`: the 16-bit value with the same two's-complement reading (00_scope.md R8). -/
def sext16 (b : Byte) : Word := b.signExtend 16

/-- `zext_16(v)`: `v` with eight zero bits above it (00_scope.md R8). -/
def zext16 (b : Byte) : Word := b.setWidth 16

/-- `zext(v)` of a word to 32 bits, for the exact product of 41_add_sub_mul_div.md R202. -/
def zext32 (w : Word) : BitVec 32 := w.setWidth 32

end Sys2Proof
end

