-- ==== Sys2Proof/WellFormed.lean ====
section
/-! DEFINITION. Which terms of `Instr` are instructions: the one check is that a memory operand without a
displacement (`mod` = 00) does not have BP as its base, since `rm` = 110 means the direct offset there
(spec/30_encoding.md R105, column "exception"). -/

namespace Sys2Proof

/-- `mod` = 00 with `rm` = 110 is the direct offset, so no encoding means `[BP]` without a displacement
(30_encoding.md R105). -/
def MemOp.wellFormed : MemOp → Bool
  | .direct _ => true
  | .base b => b != .bp
  | .disp8 _ _ => true
  | .disp16 _ _ => true

/-- A register operand is always well formed; a memory operand by `MemOp.wellFormed`. -/
def RM.wellFormed {ρ : Type} : RM ρ → Bool
  | .reg _ => true
  | .mem m => m.wellFormed

/-- An instruction is well formed when its `r/m` operand, if it has one, is. -/
def Instr.wellFormed : Instr → Bool
  | .movRm8R8 dst _ => dst.wellFormed
  | .movRm16R16 dst _ => dst.wellFormed
  | .movR8Rm8 _ src => src.wellFormed
  | .movR16Rm16 _ src => src.wellFormed
  | .movAlOff _ => true
  | .movAxOff _ => true
  | .movOffAl _ => true
  | .movOffAx _ => true
  | .movR8Imm8 _ _ => true
  | .movR16Imm16 _ _ => true
  | .movRm8Imm8 dst _ => dst.wellFormed
  | .movRm16Imm16 dst _ => dst.wellFormed
  | .addRm8R8 dst _ => dst.wellFormed
  | .addRm16R16 dst _ => dst.wellFormed
  | .addR8Rm8 _ src => src.wellFormed
  | .addR16Rm16 _ src => src.wellFormed
  | .addAlImm8 _ => true
  | .addAxImm16 _ => true
  | .addRm8Imm8 dst _ => dst.wellFormed
  | .addRm16Imm16 dst _ => dst.wellFormed
  | .addRm16Imm8 dst _ => dst.wellFormed
  | .subRm8R8 dst _ => dst.wellFormed
  | .subRm16R16 dst _ => dst.wellFormed
  | .subR8Rm8 _ src => src.wellFormed
  | .subR16Rm16 _ src => src.wellFormed
  | .subAlImm8 _ => true
  | .subAxImm16 _ => true
  | .subRm8Imm8 dst _ => dst.wellFormed
  | .subRm16Imm16 dst _ => dst.wellFormed
  | .subRm16Imm8 dst _ => dst.wellFormed
  | .mulRm8 src => src.wellFormed
  | .mulRm16 src => src.wellFormed
  | .divRm8 src => src.wellFormed
  | .divRm16 src => src.wellFormed
  | .idivRm8 src => src.wellFormed
  | .idivRm16 src => src.wellFormed
  | .incR16 _ => true
  | .decR16 _ => true
  | .incRm8 dst => dst.wellFormed
  | .decRm8 dst => dst.wellFormed
  | .incRm16 dst => dst.wellFormed
  | .decRm16 dst => dst.wellFormed
  | .jmpRel8 _ => true
  | .jmpRel16 _ => true
  | .jo _ => true
  | .jno _ => true
  | .jc _ => true
  | .jnc _ => true
  | .jz _ => true
  | .jnz _ => true
  | .jna _ => true
  | .ja _ => true
  | .js _ => true
  | .jns _ => true
  | .jl _ => true
  | .jge _ => true
  | .jle _ => true
  | .jg _ => true
  | .loop _ => true
  | .pushR16 _ => true
  | .popR16 _ => true
  | .callRel16 _ => true
  | .ret => true
  | .int _ => true
  | .iret => true
  | .nop => true

end Sys2Proof
end

