-- ==== Sys2Proof/Decode.lean ====
section
/-! DEFINITION. The decoder, total on any bytes, with the two decode-time fatal reasons by name
(spec/30_encoding.md R100 to R120), and after it the encoder and the length of an instruction, written from the
same tables. The decoder reads byte `k` of the instruction as `w k`: the machine gives it the bytes at
`Phys(CS, pc + k)` (30_encoding.md R101), a list of bytes gives it `bytesOf`. Bytes an instruction does not have
are not looked at. -/

namespace Sys2Proof

/-- Why the decoder rejects bytes: the two decode-time reasons of 60_exceptions.md R351. -/
inductive DecodeError where
  /-- The first byte is not in 30_encoding.md R114 (R116). -/
  | unrecognizedOpcode (opcode : Byte)
  /-- A group opcode with an unlisted `reg` field (30_encoding.md R115), or an addressing mode that
  `AM_SUPPORTED` excludes (R117). -/
  | unimplementedAddressingMode (opcode modRM : Byte)
  deriving DecidableEq, Repr

/-! ### Fields -/

/-- The 16-bit register of an index (10_state.md R21). -/
def Reg16.ofIndex (i : BitVec 3) : Reg16 :=
  match i.toNat with
  | 0 => .ax
  | 1 => .cx
  | 2 => .dx
  | 3 => .bx
  | 4 => .sp
  | 5 => .bp
  | 6 => .si
  | _ => .di

/-- The index of a 16-bit register (10_state.md R21). -/
def Reg16.index : Reg16 → BitVec 3
  | .ax => 0#3
  | .cx => 1#3
  | .dx => 2#3
  | .bx => 3#3
  | .sp => 4#3
  | .bp => 5#3
  | .si => 6#3
  | .di => 7#3

/-- The 8-bit register of an index (10_state.md R22). -/
def Reg8.ofIndex (i : BitVec 3) : Reg8 :=
  match i.toNat with
  | 0 => .al
  | 1 => .cl
  | 2 => .dl
  | 3 => .bl
  | 4 => .ah
  | 5 => .ch
  | 6 => .dh
  | _ => .bh

/-- The index of an 8-bit register (10_state.md R22). -/
def Reg8.index : Reg8 → BitVec 3
  | .al => 0#3
  | .cl => 1#3
  | .dl => 2#3
  | .bl => 3#3
  | .ah => 4#3
  | .ch => 5#3
  | .dh => 6#3
  | .bh => 7#3

/-- The base a ModRM `rm` field names (30_encoding.md R105). -/
def Base.ofIndex (i : BitVec 3) : Base :=
  match i.toNat with
  | 0 => .bxSi
  | 1 => .bxDi
  | 2 => .bpSi
  | 3 => .bpDi
  | 4 => .si
  | 5 => .di
  | 6 => .bp
  | _ => .bx

/-- The ModRM `rm` field of a base (30_encoding.md R105). -/
def Base.index : Base → BitVec 3
  | .bxSi => 0#3
  | .bxDi => 1#3
  | .bpSi => 2#3
  | .bpDi => 3#3
  | .si => 4#3
  | .di => 5#3
  | .bp => 6#3
  | .bx => 7#3

/-- The number of displacement bytes of an `r/m` operand (30_encoding.md R106, R112). -/
def RM.dispLen {ρ : Type} : RM ρ → Nat
  | .reg _ => 0
  | .mem (.direct _) => 2
  | .mem (.base _) => 0
  | .mem (.disp8 _ _) => 1
  | .mem (.disp16 _ _) => 2

/-- `AM_SUPPORTED(opcode, ModRM)` (30_encoding.md R117). -/
def Config.amSupported (c : Config) (opcode modRM : Byte) : Bool :=
  !c.amUnsupported.contains (opcode, modRM)

/-! ### Decoding -/

/-- The word in bytes `k` and `k + 1` of the instruction, low byte first (`Fetch16` of 30_encoding.md R101). -/
def imm16At (w : Nat → Byte) (k : Nat) : Word := mkWord (w (k + 1)) (w k)

/-- The `reg` field of the ModRM byte, bits 5:3 (30_encoding.md R103). -/
def regField (w : Nat → Byte) : BitVec 3 := (w 1).extractLsb' 3 3

/-- The register index in the low three bits of the opcode byte (`+r` forms, 30_encoding.md R102). -/
def opcodeReg (w : Nat → Byte) : BitVec 3 := (w 0).extractLsb' 0 3

/-- The `rm` operand of the ModRM byte, with its displacement bytes (30_encoding.md R103, R105, R106);
`ofIndex` reads a register index at the form's width (R104). -/
def rmOperand {ρ : Type} (ofIndex : BitVec 3 → ρ) (w : Nat → Byte) : RM ρ :=
  let rm : BitVec 3 := (w 1).extractLsb' 0 3
  match ((w 1).extractLsb' 6 2).toNat with
  | 0 => if rm = 6#3 then .mem (.direct (imm16At w 2)) else .mem (.base (Base.ofIndex rm))
  | 1 => .mem (.disp8 (Base.ofIndex rm) (w 2))
  | 2 => .mem (.disp16 (Base.ofIndex rm) (imm16At w 2))
  | _ => .reg (ofIndex rm)

/-- The `r/m8` operand. -/
def rm8 (w : Nat → Byte) : RM8 := rmOperand Reg8.ofIndex w

/-- The `r/m16` operand. -/
def rm16 (w : Nat → Byte) : RM16 := rmOperand Reg16.ofIndex w

/-- The 8-bit register the `reg` field names. -/
def reg8Field (w : Nat → Byte) : Reg8 := Reg8.ofIndex (regField w)

/-- The 16-bit register the `reg` field names. -/
def reg16Field (w : Nat → Byte) : Reg16 := Reg16.ofIndex (regField w)

/-- The offset of the first byte after the ModRM byte and its displacement (30_encoding.md R109). -/
def immAt {ρ : Type} (rm : RM ρ) : Nat := 2 + rm.dispLen

/-- The rejection of the ModRM byte (30_encoding.md R117). -/
def badModRM (w : Nat → Byte) : Except DecodeError Instr :=
  .error (.unimplementedAddressingMode (w 0) (w 1))

/-- A ModRM-bearing form: accepted where `AM_SUPPORTED` holds of its opcode and ModRM byte
(30_encoding.md R108, R117). -/
def withModRM (c : Config) (w : Nat → Byte) (i : Instr) : Except DecodeError Instr :=
  if c.amSupported (w 0) (w 1) then .ok i else badModRM w

/-- The instruction whose byte `k` is `w k`, or the fatal reason (30_encoding.md section 6, R113 to R117).
The first dispatch is on the five high bits of the opcode byte, which hold the operation of the `+r` forms
(R102); the second on the whole byte, then for a group opcode on the `reg` field (R115). A byte that is in no
row is the marker if it is `MARKER_OPCODE` (R119), and unrecognised otherwise (R116). -/
def decode (c : Config) (w : Nat → Byte) : Except DecodeError Instr :=
  match ((w 0).extractLsb' 3 5).toNat with
  | 0x08 => .ok (.incR16 (Reg16.ofIndex (opcodeReg w)))
  | 0x09 => .ok (.decR16 (Reg16.ofIndex (opcodeReg w)))
  | 0x0A => .ok (.pushR16 (Reg16.ofIndex (opcodeReg w)))
  | 0x0B => .ok (.popR16 (Reg16.ofIndex (opcodeReg w)))
  | 0x16 => .ok (.movR8Imm8 (Reg8.ofIndex (opcodeReg w)) (w 1))
  | 0x17 => .ok (.movR16Imm16 (Reg16.ofIndex (opcodeReg w)) (imm16At w 1))
  | _ =>
    match (w 0).toNat with
    | 0x00 => withModRM c w (.addRm8R8 (rm8 w) (reg8Field w))
    | 0x01 => withModRM c w (.addRm16R16 (rm16 w) (reg16Field w))
    | 0x02 => withModRM c w (.addR8Rm8 (reg8Field w) (rm8 w))
    | 0x03 => withModRM c w (.addR16Rm16 (reg16Field w) (rm16 w))
    | 0x04 => .ok (.addAlImm8 (w 1))
    | 0x05 => .ok (.addAxImm16 (imm16At w 1))
    | 0x28 => withModRM c w (.subRm8R8 (rm8 w) (reg8Field w))
    | 0x29 => withModRM c w (.subRm16R16 (rm16 w) (reg16Field w))
    | 0x2A => withModRM c w (.subR8Rm8 (reg8Field w) (rm8 w))
    | 0x2B => withModRM c w (.subR16Rm16 (reg16Field w) (rm16 w))
    | 0x2C => .ok (.subAlImm8 (w 1))
    | 0x2D => .ok (.subAxImm16 (imm16At w 1))
    | 0x70 => .ok (.jo (w 1))
    | 0x71 => .ok (.jno (w 1))
    | 0x72 => .ok (.jc (w 1))
    | 0x73 => .ok (.jnc (w 1))
    | 0x74 => .ok (.jz (w 1))
    | 0x75 => .ok (.jnz (w 1))
    | 0x76 => .ok (.jna (w 1))
    | 0x77 => .ok (.ja (w 1))
    | 0x78 => .ok (.js (w 1))
    | 0x79 => .ok (.jns (w 1))
    | 0x7C => .ok (.jl (w 1))
    | 0x7D => .ok (.jge (w 1))
    | 0x7E => .ok (.jle (w 1))
    | 0x7F => .ok (.jg (w 1))
    | 0x80 =>
      match (regField w).toNat with
      | 0 => withModRM c w (.addRm8Imm8 (rm8 w) (w (immAt (rm8 w))))
      | 5 => withModRM c w (.subRm8Imm8 (rm8 w) (w (immAt (rm8 w))))
      | _ => badModRM w
    | 0x81 =>
      match (regField w).toNat with
      | 0 => withModRM c w (.addRm16Imm16 (rm16 w) (imm16At w (immAt (rm16 w))))
      | 5 => withModRM c w (.subRm16Imm16 (rm16 w) (imm16At w (immAt (rm16 w))))
      | _ => badModRM w
    | 0x83 =>
      match (regField w).toNat with
      | 0 => withModRM c w (.addRm16Imm8 (rm16 w) (w (immAt (rm16 w))))
      | 5 => withModRM c w (.subRm16Imm8 (rm16 w) (w (immAt (rm16 w))))
      | _ => badModRM w
    | 0x88 => withModRM c w (.movRm8R8 (rm8 w) (reg8Field w))
    | 0x89 => withModRM c w (.movRm16R16 (rm16 w) (reg16Field w))
    | 0x8A => withModRM c w (.movR8Rm8 (reg8Field w) (rm8 w))
    | 0x8B => withModRM c w (.movR16Rm16 (reg16Field w) (rm16 w))
    | 0xA0 => .ok (.movAlOff (imm16At w 1))
    | 0xA1 => .ok (.movAxOff (imm16At w 1))
    | 0xA2 => .ok (.movOffAl (imm16At w 1))
    | 0xA3 => .ok (.movOffAx (imm16At w 1))
    | 0xC3 => .ok .ret
    | 0xC6 =>
      match (regField w).toNat with
      | 0 => withModRM c w (.movRm8Imm8 (rm8 w) (w (immAt (rm8 w))))
      | _ => badModRM w
    | 0xC7 =>
      match (regField w).toNat with
      | 0 => withModRM c w (.movRm16Imm16 (rm16 w) (imm16At w (immAt (rm16 w))))
      | _ => badModRM w
    | 0xCD => .ok (.int (w 1))
    | 0xCF => .ok .iret
    | 0xE2 => .ok (.loop (w 1))
    | 0xE8 => .ok (.callRel16 (imm16At w 1))
    | 0xE9 => .ok (.jmpRel16 (imm16At w 1))
    | 0xEB => .ok (.jmpRel8 (w 1))
    | 0xF6 =>
      match (regField w).toNat with
      | 4 => withModRM c w (.mulRm8 (rm8 w))
      | 6 => withModRM c w (.divRm8 (rm8 w))
      | 7 => withModRM c w (.idivRm8 (rm8 w))
      | _ => badModRM w
    | 0xF7 =>
      match (regField w).toNat with
      | 4 => withModRM c w (.mulRm16 (rm16 w))
      | 6 => withModRM c w (.divRm16 (rm16 w))
      | 7 => withModRM c w (.idivRm16 (rm16 w))
      | _ => badModRM w
    | 0xFE =>
      match (regField w).toNat with
      | 0 => withModRM c w (.incRm8 (rm8 w))
      | 1 => withModRM c w (.decRm8 (rm8 w))
      | _ => badModRM w
    | 0xFF =>
      match (regField w).toNat with
      | 0 => withModRM c w (.incRm16 (rm16 w))
      | 1 => withModRM c w (.decRm16 (rm16 w))
      | _ => badModRM w
    | _ => if w 0 = c.markerOpcode then .ok .nop else .error (.unrecognizedOpcode (w 0))

/-- Byte `k` of a list of bytes, 0 past its end. -/
def bytesOf (bs : List Byte) (k : Nat) : Byte := bs.getD k 0#8

/-- Byte `k` of an instruction given as a number, the first byte in bits 7..0. -/
def byteOfNat (w k : Nat) : Byte := BitVec.ofNat 8 (w >>> (8 * k))

/-- The instruction the decoder reads, with the default parameters, from the `nbits` low bits of `w`: the first
byte is bits 7..0 of `w`, the second bits 15..8, and every bit from `nbits` on is 0
(notes/assumptions/8.md). -/
def decodeTableWord (nbits w : Nat) : Option Instr :=
  match decode Config.default (byteOfNat (w % 2 ^ nbits)) with
  | .ok i => some i
  | .error _ => none

/-! ### Encoding -/

/-- The parts of an instruction, in the order of 30_encoding.md R100. -/
structure Parts where
  opcode : Byte
  modRM : Option Byte
  disp : List Byte
  imm : List Byte
  deriving DecidableEq, Repr

/-- The ModRM byte `{mod, reg, rm}` (30_encoding.md R103). -/
def modRMByte (mode : BitVec 2) (reg rm : BitVec 3) : Byte := mode ++ reg ++ rm

/-- The two bytes of a word, low byte first (30_encoding.md R101). -/
def wordBytes (v : Word) : List Byte := [lo8 v, hi8 v]

/-- The ModRM byte of an `rm` operand beside a given `reg` field (30_encoding.md R105). -/
def RM.modRM {ρ : Type} (index : ρ → BitVec 3) (reg : BitVec 3) : RM ρ → Byte
  | .mem (.direct _) => modRMByte 0#2 reg 6#3
  | .mem (.base b) => modRMByte 0#2 reg b.index
  | .mem (.disp8 b _) => modRMByte 1#2 reg b.index
  | .mem (.disp16 b _) => modRMByte 2#2 reg b.index
  | .reg r => modRMByte 3#2 reg (index r)

/-- The displacement bytes of an `rm` operand (30_encoding.md R106). -/
def RM.dispBytes {ρ : Type} : RM ρ → List Byte
  | .mem (.direct off) => wordBytes off
  | .mem (.base _) => []
  | .mem (.disp8 _ d) => [d]
  | .mem (.disp16 _ d) => wordBytes d
  | .reg _ => []

/-- The opcode byte of a `+r` form (30_encoding.md R102). -/
def opcodePlus (opcode : Byte) (r : BitVec 3) : Byte := opcode + r.setWidth 8

/-- A form with no ModRM byte: opcode byte, then the trailing bytes. -/
def plainParts (opcode : Byte) (imm : List Byte) : Parts := ⟨opcode, none, [], imm⟩

/-- A ModRM form with an 8-bit `rm` operand, `reg` its register index or opcode extension. -/
def modRM8Parts (opcode : Byte) (reg : BitVec 3) (rm : RM8) (imm : List Byte) : Parts :=
  ⟨opcode, some (rm.modRM Reg8.index reg), rm.dispBytes, imm⟩

/-- A ModRM form with a 16-bit `rm` operand, `reg` its register index or opcode extension. -/
def modRM16Parts (opcode : Byte) (reg : BitVec 3) (rm : RM16) (imm : List Byte) : Parts :=
  ⟨opcode, some (rm.modRM Reg16.index reg), rm.dispBytes, imm⟩

/-- The parts of each instruction (30_encoding.md R102, R114, R115); the marker is `MARKER_OPCODE`. -/
def Instr.parts (c : Config) : Instr → Parts
  | .movRm8R8 dst src => modRM8Parts 0x88#8 src.index dst []
  | .movRm16R16 dst src => modRM16Parts 0x89#8 src.index dst []
  | .movR8Rm8 dst src => modRM8Parts 0x8A#8 dst.index src []
  | .movR16Rm16 dst src => modRM16Parts 0x8B#8 dst.index src []
  | .movAlOff off => plainParts 0xA0#8 (wordBytes off)
  | .movAxOff off => plainParts 0xA1#8 (wordBytes off)
  | .movOffAl off => plainParts 0xA2#8 (wordBytes off)
  | .movOffAx off => plainParts 0xA3#8 (wordBytes off)
  | .movR8Imm8 dst imm => plainParts (opcodePlus 0xB0#8 dst.index) [imm]
  | .movR16Imm16 dst imm => plainParts (opcodePlus 0xB8#8 dst.index) (wordBytes imm)
  | .movRm8Imm8 dst imm => modRM8Parts 0xC6#8 0#3 dst [imm]
  | .movRm16Imm16 dst imm => modRM16Parts 0xC7#8 0#3 dst (wordBytes imm)
  | .addRm8R8 dst src => modRM8Parts 0x00#8 src.index dst []
  | .addRm16R16 dst src => modRM16Parts 0x01#8 src.index dst []
  | .addR8Rm8 dst src => modRM8Parts 0x02#8 dst.index src []
  | .addR16Rm16 dst src => modRM16Parts 0x03#8 dst.index src []
  | .addAlImm8 imm => plainParts 0x04#8 [imm]
  | .addAxImm16 imm => plainParts 0x05#8 (wordBytes imm)
  | .addRm8Imm8 dst imm => modRM8Parts 0x80#8 0#3 dst [imm]
  | .addRm16Imm16 dst imm => modRM16Parts 0x81#8 0#3 dst (wordBytes imm)
  | .addRm16Imm8 dst imm => modRM16Parts 0x83#8 0#3 dst [imm]
  | .subRm8R8 dst src => modRM8Parts 0x28#8 src.index dst []
  | .subRm16R16 dst src => modRM16Parts 0x29#8 src.index dst []
  | .subR8Rm8 dst src => modRM8Parts 0x2A#8 dst.index src []
  | .subR16Rm16 dst src => modRM16Parts 0x2B#8 dst.index src []
  | .subAlImm8 imm => plainParts 0x2C#8 [imm]
  | .subAxImm16 imm => plainParts 0x2D#8 (wordBytes imm)
  | .subRm8Imm8 dst imm => modRM8Parts 0x80#8 5#3 dst [imm]
  | .subRm16Imm16 dst imm => modRM16Parts 0x81#8 5#3 dst (wordBytes imm)
  | .subRm16Imm8 dst imm => modRM16Parts 0x83#8 5#3 dst [imm]
  | .mulRm8 src => modRM8Parts 0xF6#8 4#3 src []
  | .mulRm16 src => modRM16Parts 0xF7#8 4#3 src []
  | .divRm8 src => modRM8Parts 0xF6#8 6#3 src []
  | .divRm16 src => modRM16Parts 0xF7#8 6#3 src []
  | .idivRm8 src => modRM8Parts 0xF6#8 7#3 src []
  | .idivRm16 src => modRM16Parts 0xF7#8 7#3 src []
  | .incR16 dst => plainParts (opcodePlus 0x40#8 dst.index) []
  | .decR16 dst => plainParts (opcodePlus 0x48#8 dst.index) []
  | .incRm8 dst => modRM8Parts 0xFE#8 0#3 dst []
  | .decRm8 dst => modRM8Parts 0xFE#8 1#3 dst []
  | .incRm16 dst => modRM16Parts 0xFF#8 0#3 dst []
  | .decRm16 dst => modRM16Parts 0xFF#8 1#3 dst []
  | .jmpRel8 rel => plainParts 0xEB#8 [rel]
  | .jmpRel16 rel => plainParts 0xE9#8 (wordBytes rel)
  | .jo rel => plainParts 0x70#8 [rel]
  | .jno rel => plainParts 0x71#8 [rel]
  | .jc rel => plainParts 0x72#8 [rel]
  | .jnc rel => plainParts 0x73#8 [rel]
  | .jz rel => plainParts 0x74#8 [rel]
  | .jnz rel => plainParts 0x75#8 [rel]
  | .jna rel => plainParts 0x76#8 [rel]
  | .ja rel => plainParts 0x77#8 [rel]
  | .js rel => plainParts 0x78#8 [rel]
  | .jns rel => plainParts 0x79#8 [rel]
  | .jl rel => plainParts 0x7C#8 [rel]
  | .jge rel => plainParts 0x7D#8 [rel]
  | .jle rel => plainParts 0x7E#8 [rel]
  | .jg rel => plainParts 0x7F#8 [rel]
  | .loop rel => plainParts 0xE2#8 [rel]
  | .pushR16 src => plainParts (opcodePlus 0x50#8 src.index) []
  | .popR16 dst => plainParts (opcodePlus 0x58#8 dst.index) []
  | .callRel16 rel => plainParts 0xE8#8 (wordBytes rel)
  | .ret => plainParts 0xC3#8 []
  | .int vector => plainParts 0xCD#8 [vector]
  | .iret => plainParts 0xCF#8 []
  | .nop => plainParts c.markerOpcode []

/-- The bytes of an instruction: opcode byte, ModRM byte, displacement, immediate (30_encoding.md R100). -/
def encode (c : Config) (i : Instr) : List Byte :=
  (i.parts c).opcode :: ((i.parts c).modRM.toList ++ ((i.parts c).disp ++ (i.parts c).imm))

/-- The length of an instruction in bytes, by its format (30_encoding.md R102, R112). -/
def Instr.length : Instr → Nat
  | .movRm8R8 dst _ => 2 + dst.dispLen
  | .movRm16R16 dst _ => 2 + dst.dispLen
  | .movR8Rm8 _ src => 2 + src.dispLen
  | .movR16Rm16 _ src => 2 + src.dispLen
  | .movAlOff _ => 3
  | .movAxOff _ => 3
  | .movOffAl _ => 3
  | .movOffAx _ => 3
  | .movR8Imm8 _ _ => 2
  | .movR16Imm16 _ _ => 3
  | .movRm8Imm8 dst _ => 3 + dst.dispLen
  | .movRm16Imm16 dst _ => 4 + dst.dispLen
  | .addRm8R8 dst _ => 2 + dst.dispLen
  | .addRm16R16 dst _ => 2 + dst.dispLen
  | .addR8Rm8 _ src => 2 + src.dispLen
  | .addR16Rm16 _ src => 2 + src.dispLen
  | .addAlImm8 _ => 2
  | .addAxImm16 _ => 3
  | .addRm8Imm8 dst _ => 3 + dst.dispLen
  | .addRm16Imm16 dst _ => 4 + dst.dispLen
  | .addRm16Imm8 dst _ => 3 + dst.dispLen
  | .subRm8R8 dst _ => 2 + dst.dispLen
  | .subRm16R16 dst _ => 2 + dst.dispLen
  | .subR8Rm8 _ src => 2 + src.dispLen
  | .subR16Rm16 _ src => 2 + src.dispLen
  | .subAlImm8 _ => 2
  | .subAxImm16 _ => 3
  | .subRm8Imm8 dst _ => 3 + dst.dispLen
  | .subRm16Imm16 dst _ => 4 + dst.dispLen
  | .subRm16Imm8 dst _ => 3 + dst.dispLen
  | .mulRm8 src => 2 + src.dispLen
  | .mulRm16 src => 2 + src.dispLen
  | .divRm8 src => 2 + src.dispLen
  | .divRm16 src => 2 + src.dispLen
  | .idivRm8 src => 2 + src.dispLen
  | .idivRm16 src => 2 + src.dispLen
  | .incR16 _ => 1
  | .decR16 _ => 1
  | .incRm8 dst => 2 + dst.dispLen
  | .decRm8 dst => 2 + dst.dispLen
  | .incRm16 dst => 2 + dst.dispLen
  | .decRm16 dst => 2 + dst.dispLen
  | .jmpRel8 _ => 2
  | .jmpRel16 _ => 3
  | .jo _ => 2
  | .jno _ => 2
  | .jc _ => 2
  | .jnc _ => 2
  | .jz _ => 2
  | .jnz _ => 2
  | .jna _ => 2
  | .ja _ => 2
  | .js _ => 2
  | .jns _ => 2
  | .jl _ => 2
  | .jge _ => 2
  | .jle _ => 2
  | .jg _ => 2
  | .loop _ => 2
  | .pushR16 _ => 1
  | .popR16 _ => 1
  | .callRel16 _ => 3
  | .ret => 1
  | .int _ => 2
  | .iret => 1
  | .nop => 1

/-- The parameters accept an instruction: its addressing mode, where it has one, is supported
(30_encoding.md R117). -/
def Config.accepts (c : Config) (i : Instr) : Bool :=
  match (i.parts c).modRM with
  | some m => c.amSupported (i.parts c).opcode m
  | none => true

/-- The first bytes of 30_encoding.md R114 other than `MARKER_OPCODE`: 98 of them. -/
def recognisedFirstByte (b : Byte) : Bool :=
  [0x08, 0x09, 0x0A, 0x0B, 0x16, 0x17].contains (b.toNat / 8) ||
  [0x00, 0x01, 0x02, 0x03, 0x04, 0x05, 0x28, 0x29, 0x2A, 0x2B, 0x2C, 0x2D].contains b.toNat ||
  [0x70, 0x71, 0x72, 0x73, 0x74, 0x75, 0x76, 0x77, 0x78, 0x79, 0x7C, 0x7D, 0x7E, 0x7F].contains b.toNat ||
  [0x80, 0x81, 0x83, 0x88, 0x89, 0x8A, 0x8B, 0xA0, 0xA1, 0xA2, 0xA3].contains b.toNat ||
  [0xC3, 0xC6, 0xC7, 0xCD, 0xCF, 0xE2, 0xE8, 0xE9, 0xEB, 0xF6, 0xF7, 0xFE, 0xFF].contains b.toNat

end Sys2Proof
end

