-- ==== Sys2Proof/Machine/State.lean ====
section
/-! DEFINITION. The state of the machine as plain data: everything spec/10_state.md gives the core, the event
stream it puts out (R45), and two fields of the model's own (the draw counter and the parameters); the reasons a
step can stop (spec/60_exceptions.md R351); the state after reset (spec/10_state.md R47). -/

namespace Sys2Proof.Machine

/-- Why a step fails: the five fatal reasons of 60_exceptions.md R351. Each carries the report of R358: the
opcode byte, the offset `ip` of that byte in CS, and the extra byte where the reason has one. The state is as it
was before the step (R357); a fault holds none. Every one of them is SAFE: the model stops where the spec says the
core stops. -/
inductive Fault where
  /-- Raised by the decoder on a first byte outside 30_encoding.md R114 (R116, R352). Safe. -/
  | unrecognizedOpcode (opcode : Byte) (ip : Word)
  /-- Raised by the decoder on a ModRM byte: an unlisted `reg` field of a group opcode (30_encoding.md R115), or
  an addressing mode `AM_SUPPORTED` excludes (R117, R353). Safe. -/
  | unimplementedAddressingMode (opcode : Byte) (ip : Word) (modRM : Byte)
  /-- Raised by `INT n` for a vector other than 0x10 and 0x21 (R354). Safe. -/
  | unknownInterruptVector (opcode : Byte) (ip : Word) (vector : Byte)
  /-- Raised by `DIV` and `IDIV` for a zero divisor or a quotient that does not fit (R355). Safe. -/
  | divideError (opcode : Byte) (ip : Word)
  /-- Raised by `PUSH SP` (R356). Safe. -/
  | refusedForm (opcode : Byte) (ip : Word)
  deriving DecidableEq, Repr

/-- Why the model gives an instruction no meaning. No arm of `exec` and no meaning answers with it: the row models
every instruction. -/
inductive Refusal where
  /-- Raised by an arm of `exec` for an instruction that has no meaning yet. Safe. -/
  | notModelled (mnemonic : String)
  deriving DecidableEq, Repr

/-- An abstract side effect of `INT` (10_state.md R45): the one variant the document names. -/
inductive Event where
  | print (character : Byte)
  deriving DecidableEq, Repr

/-- The eight general registers (10_state.md R20). The 8-bit registers are halves of the first four (R22). -/
structure Regs where
  ax : Word
  cx : Word
  dx : Word
  bx : Word
  sp : Word
  bp : Word
  si : Word
  di : Word
  deriving DecidableEq, Repr

/-- The five flags (10_state.md R30): carry, zero, sign, overflow, interrupt-disable. -/
structure Flags where
  cf : Bool
  zf : Bool
  sf : Bool
  of : Bool
  idf : Bool
  deriving DecidableEq, Repr

/-- The register file (00_scope.md R2): the general registers, the four segment registers, the instruction pointer
and the flags. Beside the vector it is what the parameter `EVENT_OF` is a function of (R4). -/
structure RegisterFile where
  regs : Regs
  cs : Word
  ds : Word
  es : Word
  ss : Word
  ip : Word
  flags : Flags
  deriving DecidableEq, Repr

/-- Memory: the bytes that are not zero, by rising address (10_state.md R36). An address that is not listed reads
0x00, the content R47 gives every byte at reset. -/
abbrev Memory := List Host.Cell

/-- The state (10_state.md, opening: "The whole state is ..."). -/
structure State where
  /-- AX, CX, DX, BX, SP, BP, SI, DI (R20). -/
  regs : Regs
  /-- The code segment (R29). -/
  cs : Word
  /-- The data segment (R29). -/
  ds : Word
  /-- The extra segment (R29). -/
  es : Word
  /-- The stack segment (R29). -/
  ss : Word
  /-- The instruction pointer (R26). -/
  ip : Word
  /-- CF, ZF, SF, OF, IDF (R30). -/
  flags : Flags
  /-- The 65536 bytes of memory (R36). -/
  mem : Memory
  /-- The events yielded so far, in step order: an output no rule reads (R45; notes/assumptions/4.md). -/
  events : List Event
  /-- The model's own: how many flag values have been drawn (41 R207; notes/assumptions/3.md). -/
  draws : Nat
  /-- The model's own: the OPEN parameters (00_scope.md R4), which no step changes (notes/assumptions/1.md). -/
  cfg : Config
  deriving DecidableEq, Repr

/-- The state after reset of a session with parameters `c` (10_state.md R47, 70_reset_and_hazards.md R390): memory
zero, general registers 0 except SP = `SP_RESET`, segment registers 0, flags 0, IP = `ENTRY`, no event. Apart from
memory these are the spec's decision D8 (notes/assumptions/2.md); `draws` starts at 0 (DESIGN CHOICE,
notes/assumptions/3.md). -/
def State.resetWith (c : Config) : State where
  regs := ⟨0#16, 0#16, 0#16, 0#16, c.spReset, 0#16, 0#16, 0#16⟩
  cs := 0#16
  ds := 0#16
  es := 0#16
  ss := 0#16
  ip := c.entry
  flags := ⟨false, false, false, false, false⟩
  mem := []
  events := []
  draws := 0
  cfg := c

/-- The state after reset with the default parameters of 00_scope.md R4. -/
def State.reset : State := State.resetWith Config.default

/-- What a step, and the meaning of an instruction, answers (00_scope.md R6): the next state or a fatal report. -/
abbrev Result := Host.Outcome State Fault Refusal

end Sys2Proof.Machine
end

