-- ==== Sys2Proof/Machine/Flags.lean ====
section
/-! DEFINITION. Every flag computation of the spec: the two ALU functions with their flags
(spec/41_add_sub_mul_div.md R180, R181), which flags each family writes (spec/10_state.md R31), the conditions of
the conditional jumps (spec/43_jumps_loop.md R253), the flags image and its inverse (spec/10_state.md R33, R34). -/

namespace Sys2Proof.Machine

/-- The answer of an ALU function: the result and the four arithmetic flags. -/
structure Alu (n : Nat) where
  result : BitVec n
  cf : Bool
  zf : Bool
  sf : Bool
  of : Bool
  deriving DecidableEq, Repr

/-- `ADD_n(a, b)` (41 R180): CF is the carry out, OF is set when both operands have one sign and the result the
other. -/
def aluAdd {n : Nat} (a b : BitVec n) : Alu n where
  result := a + b
  cf := decide (2 ^ n ≤ a.toNat + b.toNat)
  zf := decide (a + b = 0#n)
  sf := (a + b).msb
  of := (a.msb == b.msb) && ((a + b).msb != a.msb)

/-- `SUB_n(a, b)` (41 R181): CF is the borrow, OF is set when the operands have different signs and the result's is
not the first operand's. -/
def aluSub {n : Nat} (a b : BitVec n) : Alu n where
  result := a - b
  cf := decide (a.toNat < b.toNat)
  zf := decide (a - b = 0#n)
  sf := (a - b).msb
  of := (a.msb != b.msb) && ((a - b).msb != a.msb)

/-- `ADD` and `SUB` write CF, ZF, SF, OF; IDF is unchanged (10_state.md R31, 41 R182). -/
def Flags.ofAlu {n : Nat} (f : Flags) (o : Alu n) : Flags :=
  { f with cf := o.cf, zf := o.zf, sf := o.sf, of := o.of }

/-- `INC` and `DEC` write ZF, SF, OF; CF and IDF are unchanged (42 R230). -/
def Flags.ofIncDec {n : Nat} (f : Flags) (o : Alu n) : Flags :=
  { f with zf := o.zf, sf := o.sf, of := o.of }

/-- `MUL` sets CF and OF to "the high half is not zero"; ZF and SF are the draws `z` and `g`
(41 R201, R202, R207). -/
def Flags.ofMul (f : Flags) (high z g : Bool) : Flags :=
  { f with cf := high, of := high, zf := z, sf := g }

/-- `DIV` and `IDIV` leave draws in CF, ZF, SF, OF (41 R203 to R207). -/
def Flags.ofDiv (f : Flags) (c z g o : Bool) : Flags :=
  { f with cf := c, zf := z, sf := g, of := o }

/-- One flag at its bit position in the image. -/
def flagBit (b : Bool) (position : Nat) : Word := (BitVec.ofBool b).setWidth 16 <<< position

/-- `FlagsImage() = CF | ZF << 6 | SF << 7 | IDF << 9 | OF << 11` (10_state.md R33). -/
def Flags.image (f : Flags) : Word :=
  flagBit f.cf 0 ||| flagBit f.zf 6 ||| flagBit f.sf 7 ||| flagBit f.idf 9 ||| flagBit f.of 11

/-- `SetFlagsFromImage(w)`: bits 0, 6, 7, 9 and 11; the other eleven are ignored (10_state.md R34). -/
def Flags.ofImage (w : Word) : Flags where
  cf := w.getLsbD 0
  zf := w.getLsbD 6
  sf := w.getLsbD 7
  of := w.getLsbD 11
  idf := w.getLsbD 9

/-! ### The conditions of the conditional jumps (43_jumps_loop.md R253) -/

/-- JO: OF = 1. -/
def Flags.condJo (f : Flags) : Bool := f.of

/-- JNO: OF = 0. -/
def Flags.condJno (f : Flags) : Bool := !f.of

/-- JC, JB, JNAE: CF = 1. -/
def Flags.condJc (f : Flags) : Bool := f.cf

/-- JNC, JAE, JNB: CF = 0. -/
def Flags.condJnc (f : Flags) : Bool := !f.cf

/-- JZ, JE: ZF = 1. -/
def Flags.condJz (f : Flags) : Bool := f.zf

/-- JNZ, JNE: ZF = 0. -/
def Flags.condJnz (f : Flags) : Bool := !f.zf

/-- JNA, JBE: CF = 1 or ZF = 1. -/
def Flags.condJna (f : Flags) : Bool := f.cf || f.zf

/-- JA, JNBE: CF = 0 and ZF = 0. -/
def Flags.condJa (f : Flags) : Bool := !f.cf && !f.zf

/-- JS: SF = 1. -/
def Flags.condJs (f : Flags) : Bool := f.sf

/-- JNS: SF = 0. -/
def Flags.condJns (f : Flags) : Bool := !f.sf

/-- JL, JNGE: SF ≠ OF. -/
def Flags.condJl (f : Flags) : Bool := f.sf != f.of

/-- JGE, JNL: SF = OF. -/
def Flags.condJge (f : Flags) : Bool := f.sf == f.of

/-- JLE, JNG: ZF = 1 or SF ≠ OF. -/
def Flags.condJle (f : Flags) : Bool := f.zf || (f.sf != f.of)

/-- JG, JNLE: ZF = 0 and SF = OF. -/
def Flags.condJg (f : Flags) : Bool := !f.zf && (f.sf == f.of)

end Sys2Proof.Machine
end

