-- ==== Sys2Proof/Machine/Ops.lean ====
section
/-! DEFINITION. The named operations over memory, registers, the instruction pointer, the stack and the event
stream; the fetch of an instruction's bytes; the interrupt entry of `INT n` and the return of `IRET`, each ONE
shared operation (spec/60_exceptions.md R363, R364). Every read and write of a register, a segment or a byte of
memory goes through these. -/

namespace Sys2Proof.Machine

/-! ### Memory (20_memory.md R63; 10_state.md R36) -/

/-- The byte at an address: 0x00 where none is listed (10_state.md R47). -/
def Memory.read : Memory → Nat → Byte
  | [], _ => 0#8
  | (k, v) :: m, a => if k = a then v else Memory.read m a

/-- A cell put at its place in the rising order. -/
def Memory.insert : Memory → Nat → Byte → Memory
  | [], a, v => [(a, v)]
  | (k, u) :: m, a, v => if a < k then (a, v) :: (k, u) :: m else (k, u) :: Memory.insert m a v

/-- Every cell but those at an address. -/
def Memory.erase : Memory → Nat → Memory
  | [], _ => []
  | (k, u) :: m, a => if k = a then Memory.erase m a else (k, u) :: Memory.erase m a

/-- Write a byte: 0x00, what an unlisted address reads as, is not listed. -/
def Memory.write (m : Memory) (a : Nat) (v : Byte) : Memory :=
  if v = 0#8 then m.erase a else (m.erase a).insert a v

/-- From an address on: addresses strictly rising, below 65536, no zero byte listed. -/
def Memory.wfFrom : Nat → Memory → Bool
  | _, [] => true
  | low, (k, v) :: m => decide (low ≤ k) && decide (k < 65536) && (v != 0#8) && Memory.wfFrom (k + 1) m

/-- The canonical form of memory: addresses strictly rising and below 65536 (20_memory.md R60), and no entry
equal to what an unlisted address reads as. -/
def Memory.wf (m : Memory) : Bool := Memory.wfFrom 0 m

/-- `MemRead(addr, 1)` (20_memory.md R63). -/
def State.byteAt (s : State) (a : Word) : Byte := Memory.read s.mem a.toNat

/-- `MemWrite(addr, 1, v)` (20_memory.md R63). -/
def State.setByte (s : State) (a : Word) (v : Byte) : State :=
  { s with mem := Memory.write s.mem a.toNat v }

/-- `MemRead(addr, 2)`: the high byte is at `addr + 1` modulo 65536 (20_memory.md R63, R64). -/
def State.wordAt (s : State) (a : Word) : Word := mkWord (s.byteAt (a + 1#16)) (s.byteAt a)

/-- `MemWrite(addr, 2, v)` (20_memory.md R63, R64). -/
def State.setWord (s : State) (a : Word) (v : Word) : State :=
  (s.setByte a (lo8 v)).setByte (a + 1#16) (hi8 v)

/-- The host's copy of bytes into memory at rising addresses, modulo 65536 (70_reset_and_hazards.md R393). -/
def State.storeBytes (s : State) (a : Word) : List Byte → State
  | [] => s
  | b :: bs => (s.setByte a b).storeBytes (a + 1#16) bs

/-- `Phys(seg, off) = (SEG_SCALE * seg + off) mod 65536` (20_memory.md R61). -/
def State.phys (s : State) (seg off : Word) : Word := s.cfg.segScale * seg + off

/-! ### Registers (10_state.md R20 to R25, R29) -/

/-- A general register of the register file. -/
def Regs.get (g : Regs) : Reg16 → Word
  | .ax => g.ax
  | .cx => g.cx
  | .dx => g.dx
  | .bx => g.bx
  | .sp => g.sp
  | .bp => g.bp
  | .si => g.si
  | .di => g.di

/-- The register file with one general register replaced. -/
def Regs.set (g : Regs) (r : Reg16) (v : Word) : Regs :=
  match r with
  | .ax => { g with ax := v }
  | .cx => { g with cx := v }
  | .dx => { g with dx := v }
  | .bx => { g with bx := v }
  | .sp => { g with sp := v }
  | .bp => { g with bp := v }
  | .si => { g with si := v }
  | .di => { g with di := v }

/-- `x[i]` (10_state.md R20, R21). -/
def State.reg16 (s : State) (r : Reg16) : Word := s.regs.get r

/-- `x[i] <- v` (10_state.md R20, R21). -/
def State.setReg16 (s : State) (r : Reg16) (v : Word) : State := { s with regs := s.regs.set r v }

/-- The 16-bit register an 8-bit register is a half of (10_state.md R22). -/
def whole : Reg8 → Reg16
  | .al => .ax
  | .cl => .cx
  | .dl => .dx
  | .bl => .bx
  | .ah => .ax
  | .ch => .cx
  | .dh => .dx
  | .bh => .bx

/-- The 8-bit register is the high half (10_state.md R22). -/
def isHigh : Reg8 → Bool
  | .al => false
  | .cl => false
  | .dl => false
  | .bl => false
  | .ah => true
  | .ch => true
  | .dh => true
  | .bh => true

/-- An 8-bit register of the register file (10_state.md R22, R23). -/
def Regs.get8 (g : Regs) (r : Reg8) : Byte :=
  if isHigh r then hi8 (g.get (whole r)) else lo8 (g.get (whole r))

/-- `b[i]` (10_state.md R23). -/
def State.reg8 (s : State) (r : Reg8) : Byte := s.regs.get8 r

/-- `b[i] <- v`: the other half of the word is kept (10_state.md R23). -/
def State.setReg8 (s : State) (r : Reg8) (v : Byte) : State :=
  s.setReg16 (whole r)
    (if isHigh r then mkWord v (lo8 (s.reg16 (whole r))) else mkWord (hi8 (s.reg16 (whole r))) v)

/-- The value of a segment register (10_state.md R29). -/
def State.seg (s : State) : Seg → Word
  | .cs => s.cs
  | .ds => s.ds
  | .es => s.es
  | .ss => s.ss

/-- The state with other flags. -/
def State.setFlags (s : State) (f : Flags) : State := { s with flags := f }

/-! ### The instruction pointer (10_state.md R26 to R28; 43_jumps_loop.md R250) -/

/-- `pc <- target`. -/
def State.jump (s : State) (target : Word) : State := { s with ip := target }

/-- The offset `n` bytes after the opcode byte, modulo 2^16: `pc_next` for an instruction of length `n`. -/
def State.pcAfter (s : State) (n : Nat) : Word := s.ip + BitVec.ofNat 16 n

/-- `pc` moved past an instruction of length `n`. -/
def State.advance (s : State) (n : Nat) : State := s.jump (s.pcAfter n)

/-! ### Instruction fetch (30_encoding.md R101) -/

/-- Byte `k` of the instruction at `CS:IP`: `MemRead(Phys(CS, pc + k), 1)`. -/
def State.fetchByte (s : State) (k : Nat) : Byte := s.byteAt (s.phys s.cs (s.ip + BitVec.ofNat 16 k))

/-- The instruction at `CS:IP`, or the reason there is none. -/
def State.decodeNext (s : State) : Except DecodeError Instr := decode s.cfg s.fetchByte

/-- The report of a decode-time reason, with the offset of the opcode byte (60_exceptions.md R358). -/
def decodeFault (ip : Word) : DecodeError → Fault
  | .unrecognizedOpcode opcode => .unrecognizedOpcode opcode ip
  | .unimplementedAddressingMode opcode modRM => .unimplementedAddressingMode opcode ip modRM

/-- The longest instruction, in bytes (30_encoding.md R100). -/
def longestInstr : Nat := 6

/-- An instruction given as a number placed where the next one is fetched: its `nbits` low bits, zeros above, over
the longest instruction's bytes. -/
def State.placeInstr (s : State) (nbits w : Nat) : State :=
  s.storeBytes (s.phys s.cs s.ip) ((List.range longestInstr).map (byteOfNat (w % 2 ^ nbits)))

/-! ### The stack (44_stack_call_ret.md R290, R291, R297) -/

/-- `Push16(v)`: SP is decremented, then the word is written at `Phys(SS, SP)` (R290). -/
def State.push16 (s : State) (v : Word) : State :=
  (s.setReg16 .sp (s.reg16 .sp - 2#16)).setWord (s.phys s.ss (s.reg16 .sp - 2#16)) v

/-- The word at the top of the stack, which `Pop16()` returns (R291). -/
def State.stackTop (s : State) : Word := s.wordAt (s.phys s.ss (s.reg16 .sp))

/-- `Pop16()` moves SP up by one word; the popped word stays in memory (R291). -/
def State.dropWord (s : State) : State := s.setReg16 .sp (s.reg16 .sp + 2#16)

/-! ### Free values (00_scope.md R9, `any()`) -/

/-- The flags after `MUL`: two draws (41 R201, R202, R207). -/
def State.setMulFlags (s : State) (high : Bool) : State :=
  { s with
    flags := s.flags.ofMul high (Config.freeFlag s.draws) (Config.freeFlag (s.draws + 1))
    draws := s.draws + 2 }

/-- The flags after `DIV` and `IDIV`: four draws (41 R203 to R207). -/
def State.setDivFlags (s : State) : State :=
  { s with
    flags := s.flags.ofDiv (Config.freeFlag s.draws) (Config.freeFlag (s.draws + 1))
      (Config.freeFlag (s.draws + 2)) (Config.freeFlag (s.draws + 3))
    draws := s.draws + 4 }

/-! ### Events (10_state.md R45; 45_int_iret.md R322) -/

/-- The register file of a state (00_scope.md R2). -/
def State.registerFile (s : State) : RegisterFile := ⟨s.regs, s.cs, s.ds, s.es, s.ss, s.ip, s.flags⟩

/-- A segment register of the register file. -/
def RegisterFile.seg (f : RegisterFile) : Seg → Word
  | .cs => f.cs
  | .ds => f.ds
  | .es => f.es
  | .ss => f.ss

/-- The answer to a question of `EVENT_OF`. -/
def eventTestHolds (vector : Byte) (f : RegisterFile) : EventTest → Bool
  | .vectorIs v => vector == v
  | .reg8Is r v => f.regs.get8 r == v
  | .reg16Is r v => f.regs.get r == v
  | .segIs g v => f.seg g == v
  | .ipIs v => f.ip == v
  | .cfSet => f.flags.cf
  | .zfSet => f.flags.zf
  | .sfSet => f.flags.sf
  | .ofSet => f.flags.of
  | .idfSet => f.flags.idf

/-- The event a decision tree gives for a vector and a register file. -/
def chooseEvent (vector : Byte) (f : RegisterFile) : EventChoice → Option Event
  | .nothing => none
  | .print c => some (.print c)
  | .printReg r => some (.print (f.regs.get8 r))
  | .test q yes no => if eventTestHolds vector f q then chooseEvent vector f yes else chooseEvent vector f no

/-- `EVENT_OF(n, register file)` (45_int_iret.md R322). -/
def State.eventOf (s : State) (vector : Byte) : Option Event :=
  chooseEvent vector s.registerFile s.cfg.eventChoice

/-- `emit e`: the step yields at most one event, put at the end of the stream. -/
def State.emit (s : State) (e : Option Event) : State := { s with events := s.events ++ e.toList }

/-! ### Interrupt entry and return (60_exceptions.md R363, R364) -/

/-- The state with IDF set (10_state.md R32). -/
def State.setIdf (s : State) : State := s.setFlags { s.flags with idf := true }

/-- The state with CS and `pc` at a handler's entry point. -/
def State.farJump (s : State) (seg off : Word) : State := { s with cs := seg, ip := off }

/-- The entry of `INT n` (R363, 45_int_iret.md R320): the flags image, CS and the return offset are pushed in that
order, IDF is set, and CS:IP is the handler's entry point. -/
def State.enterInterrupt (s : State) (returnIp seg off : Word) : State :=
  ((((s.push16 s.flags.image).push16 s.cs).push16 returnIp).setIdf).farJump seg off

/-- The return of `IRET` (R364, 45_int_iret.md R323): `pc`, CS and the flags image are popped in that order. -/
def State.returnFromInterrupt (s : State) : State :=
  let newIp := s.stackTop
  let newCs := s.dropWord.stackTop
  let image := s.dropWord.dropWord.stackTop
  ((s.dropWord.dropWord.dropWord).farJump newCs newIp).setFlags (Flags.ofImage image)

/-! ### Fatal reports (60_exceptions.md R355, R356, R354) -/

/-- The fatal step of `DIV` and `IDIV` (R355): the offset reported is that of the opcode byte (R358). -/
def divideError (opcode : Byte) (s : State) : Result := .fault (.divideError opcode s.ip)

/-- The fatal step of `PUSH SP` (R356). -/
def refusedForm (opcode : Byte) (s : State) : Result := .fault (.refusedForm opcode s.ip)

/-- The fatal step of `INT n` for an unknown vector (R354). -/
def unknownVector (opcode vector : Byte) (s : State) : Result :=
  .fault (.unknownInterruptVector opcode s.ip vector)

end Sys2Proof.Machine
end

