-- ==== Sys2Proof/Machine/Operands.lean ====
section
/-! DEFINITION. Every operand form: the effective address and the segment of a memory operand
(spec/30_encoding.md R105 to R107), reading and writing an `r/m` operand (R108), direct offsets (R111). Addresses
are computed from the state before the instruction writes anything (R108). -/

namespace Sys2Proof.Machine

/-- The base of an effective address, modulo 2^16 (30_encoding.md R105). -/
def State.baseValue (s : State) : Base → Word
  | .bxSi => s.reg16 .bx + s.reg16 .si
  | .bxDi => s.reg16 .bx + s.reg16 .di
  | .bpSi => s.reg16 .bp + s.reg16 .si
  | .bpDi => s.reg16 .bp + s.reg16 .di
  | .si => s.reg16 .si
  | .di => s.reg16 .di
  | .bp => s.reg16 .bp
  | .bx => s.reg16 .bx

/-- The segment of a base: SS for those that use BP, DS for the others (30_encoding.md R107). -/
def Base.segment : Base → Seg
  | .bxSi => .ds
  | .bxDi => .ds
  | .bpSi => .ss
  | .bpDi => .ss
  | .si => .ds
  | .di => .ds
  | .bp => .ss
  | .bx => .ds

/-- `EA` (30_encoding.md R105, R106): an 8-bit displacement is sign-extended. -/
def State.effectiveAddress (s : State) : MemOp → Word
  | .direct off => off
  | .base b => s.baseValue b
  | .disp8 b d => s.baseValue b + sext16 d
  | .disp16 b d => s.baseValue b + d

/-- The segment register of a memory operand; a direct offset is in DS (30_encoding.md R107, 20_memory.md R62). -/
def operandSegment : MemOp → Seg
  | .direct _ => .ds
  | .base b => Base.segment b
  | .disp8 b _ => Base.segment b
  | .disp16 b _ => Base.segment b

/-- `Phys(sg, EA)`: the physical address of a memory operand (30_encoding.md R107). -/
def State.operandAddress (s : State) (m : MemOp) : Word :=
  s.phys (s.seg (operandSegment m)) (s.effectiveAddress m)

/-- `Phys(DS, off)`: the physical address of a direct offset of the `MOFFS` format (30_encoding.md R111). -/
def State.directAddress (s : State) (off : Word) : Word := s.phys s.ds off

/-- `ReadRM(1)` (30_encoding.md R108). -/
def State.readRm8 (s : State) : RM8 → Byte
  | .reg r => s.reg8 r
  | .mem m => s.byteAt (s.operandAddress m)

/-- `ReadRM(2)` (30_encoding.md R108). -/
def State.readRm16 (s : State) : RM16 → Word
  | .reg r => s.reg16 r
  | .mem m => s.wordAt (s.operandAddress m)

/-- `WriteRM(1, v)` (30_encoding.md R108). -/
def State.writeRm8 (s : State) (dst : RM8) (v : Byte) : State :=
  match dst with
  | .reg r => s.setReg8 r v
  | .mem m => s.setByte (s.operandAddress m) v

/-- `WriteRM(2, v)` (30_encoding.md R108). -/
def State.writeRm16 (s : State) (dst : RM16) (v : Word) : State :=
  match dst with
  | .reg r => s.setReg16 r v
  | .mem m => s.setWord (s.operandAddress m) v

end Sys2Proof.Machine
end

