-- ==== Sys2Proof/Machine/Arith.lean ====
section
/-! DEFINITION. The nine forms each of `ADD` and `SUB` (spec/41_add_sub_mul_div.md R182 to R200): the operands are read,
the destination takes the result of the ALU function and CF, ZF, SF, OF its flags, `pc` at `pc_next`. -/

namespace Sys2Proof.Machine

/-- A destination `r/m8` takes the result of an ALU function whose first operand it was, and CF, ZF, SF, OF its
flags (R182). -/
def arithRm8 (alu : Byte → Byte → Alu 8) (dst : RM8) (src : Byte) (s : State) : State :=
  (s.writeRm8 dst (alu (s.readRm8 dst) src).result).setFlags (s.flags.ofAlu (alu (s.readRm8 dst) src))

/-- The same for a destination `r/m16` (R182). -/
def arithRm16 (alu : Word → Word → Alu 16) (dst : RM16) (src : Word) (s : State) : State :=
  (s.writeRm16 dst (alu (s.readRm16 dst) src).result).setFlags (s.flags.ofAlu (alu (s.readRm16 dst) src))

/-- `ADD r/m8, r8` (R183). -/
def execAddRm8R8 (dst : RM8) (src : Reg8) (s : State) : Result :=
  .next ((arithRm8 aluAdd dst (s.reg8 src) s).advance (Instr.length (.addRm8R8 dst src)))

/-- `ADD r/m16, r16` (R184). -/
def execAddRm16R16 (dst : RM16) (src : Reg16) (s : State) : Result :=
  .next ((arithRm16 aluAdd dst (s.reg16 src) s).advance (Instr.length (.addRm16R16 dst src)))

/-- `ADD r8, r/m8` (R185). -/
def execAddR8Rm8 (dst : Reg8) (src : RM8) (s : State) : Result :=
  .next ((arithRm8 aluAdd (.reg dst) (s.readRm8 src) s).advance (Instr.length (.addR8Rm8 dst src)))

/-- `ADD r16, r/m16` (R186). -/
def execAddR16Rm16 (dst : Reg16) (src : RM16) (s : State) : Result :=
  .next ((arithRm16 aluAdd (.reg dst) (s.readRm16 src) s).advance (Instr.length (.addR16Rm16 dst src)))

/-- `ADD AL, imm8` (R187). -/
def execAddAlImm8 (imm : Byte) (s : State) : Result :=
  .next ((arithRm8 aluAdd (.reg .al) imm s).advance (Instr.length (.addAlImm8 imm)))

/-- `ADD AX, imm16` (R188). -/
def execAddAxImm16 (imm : Word) (s : State) : Result :=
  .next ((arithRm16 aluAdd (.reg .ax) imm s).advance (Instr.length (.addAxImm16 imm)))

/-- `ADD r/m8, imm8` (R189). -/
def execAddRm8Imm8 (dst : RM8) (imm : Byte) (s : State) : Result :=
  .next ((arithRm8 aluAdd dst imm s).advance (Instr.length (.addRm8Imm8 dst imm)))

/-- `ADD r/m16, imm16` (R190). -/
def execAddRm16Imm16 (dst : RM16) (imm : Word) (s : State) : Result :=
  .next ((arithRm16 aluAdd dst imm s).advance (Instr.length (.addRm16Imm16 dst imm)))

/-- `ADD r/m16, imm8` (R191): the immediate is sign-extended. -/
def execAddRm16Imm8 (dst : RM16) (imm : Byte) (s : State) : Result :=
  .next ((arithRm16 aluAdd dst (sext16 imm) s).advance (Instr.length (.addRm16Imm8 dst imm)))

/-- `SUB r/m8, r8` (R192). -/
def execSubRm8R8 (dst : RM8) (src : Reg8) (s : State) : Result :=
  .next ((arithRm8 aluSub dst (s.reg8 src) s).advance (Instr.length (.subRm8R8 dst src)))

/-- `SUB r/m16, r16` (R193). -/
def execSubRm16R16 (dst : RM16) (src : Reg16) (s : State) : Result :=
  .next ((arithRm16 aluSub dst (s.reg16 src) s).advance (Instr.length (.subRm16R16 dst src)))

/-- `SUB r8, r/m8` (R194). -/
def execSubR8Rm8 (dst : Reg8) (src : RM8) (s : State) : Result :=
  .next ((arithRm8 aluSub (.reg dst) (s.readRm8 src) s).advance (Instr.length (.subR8Rm8 dst src)))

/-- `SUB r16, r/m16` (R195). -/
def execSubR16Rm16 (dst : Reg16) (src : RM16) (s : State) : Result :=
  .next ((arithRm16 aluSub (.reg dst) (s.readRm16 src) s).advance (Instr.length (.subR16Rm16 dst src)))

/-- `SUB AL, imm8` (R196). -/
def execSubAlImm8 (imm : Byte) (s : State) : Result :=
  .next ((arithRm8 aluSub (.reg .al) imm s).advance (Instr.length (.subAlImm8 imm)))

/-- `SUB AX, imm16` (R197). -/
def execSubAxImm16 (imm : Word) (s : State) : Result :=
  .next ((arithRm16 aluSub (.reg .ax) imm s).advance (Instr.length (.subAxImm16 imm)))

/-- `SUB r/m8, imm8` (R198). -/
def execSubRm8Imm8 (dst : RM8) (imm : Byte) (s : State) : Result :=
  .next ((arithRm8 aluSub dst imm s).advance (Instr.length (.subRm8Imm8 dst imm)))

/-- `SUB r/m16, imm16` (R199). -/
def execSubRm16Imm16 (dst : RM16) (imm : Word) (s : State) : Result :=
  .next ((arithRm16 aluSub dst imm s).advance (Instr.length (.subRm16Imm16 dst imm)))

/-- `SUB r/m16, imm8` (R200): the immediate is sign-extended. -/
def execSubRm16Imm8 (dst : RM16) (imm : Byte) (s : State) : Result :=
  .next ((arithRm16 aluSub dst (sext16 imm) s).advance (Instr.length (.subRm16Imm8 dst imm)))

end Sys2Proof.Machine
end

