-- ==== Sys2Proof/Machine/IncDec.lean ====
section
/-! DEFINITION. The three forms each of `INC` and `DEC` (spec/42_inc_dec.md R230 to R236). -/

namespace Sys2Proof.Machine

/-- `INC_n` or `DEC_n` on an `r/m8`: ZF, SF, OF from the ALU function with 1, CF kept (R230). -/
def stepRm8 (alu : Byte → Byte → Alu 8) (dst : RM8) (s : State) : State :=
  (s.writeRm8 dst (alu (s.readRm8 dst) 1#8).result).setFlags (s.flags.ofIncDec (alu (s.readRm8 dst) 1#8))

/-- `INC_n` or `DEC_n` on an `r/m16` (R230). -/
def stepRm16 (alu : Word → Word → Alu 16) (dst : RM16) (s : State) : State :=
  (s.writeRm16 dst (alu (s.readRm16 dst) 1#16).result).setFlags (s.flags.ofIncDec (alu (s.readRm16 dst) 1#16))

/-- `INC r16` (R231). -/
def execIncR16 (dst : Reg16) (s : State) : Result :=
  .next ((stepRm16 aluAdd (.reg dst) s).advance (Instr.length (.incR16 dst)))

/-- `DEC r16` (R232). -/
def execDecR16 (dst : Reg16) (s : State) : Result :=
  .next ((stepRm16 aluSub (.reg dst) s).advance (Instr.length (.decR16 dst)))

/-- `INC r/m8` (R233). -/
def execIncRm8 (dst : RM8) (s : State) : Result :=
  .next ((stepRm8 aluAdd dst s).advance (Instr.length (.incRm8 dst)))

/-- `DEC r/m8` (R234). -/
def execDecRm8 (dst : RM8) (s : State) : Result :=
  .next ((stepRm8 aluSub dst s).advance (Instr.length (.decRm8 dst)))

/-- `INC r/m16` (R235). -/
def execIncRm16 (dst : RM16) (s : State) : Result :=
  .next ((stepRm16 aluAdd dst s).advance (Instr.length (.incRm16 dst)))

/-- `DEC r/m16` (R236). -/
def execDecRm16 (dst : RM16) (s : State) : Result :=
  .next ((stepRm16 aluSub dst s).advance (Instr.length (.decRm16 dst)))

end Sys2Proof.Machine
end

