-- ==== Sys2Proof/Machine/Interrupts.lean ====
section
/-! DEFINITION. `INT n`, `IRET` and the marker no-operation (spec/45_int_iret.md R320 to R327). -/

namespace Sys2Proof.Machine

/-- The dispatch of the two vectors (R321): the offset of the handler's entry point in `BIOS_SEG`. -/
def State.handlerOffset (s : State) (vector : Byte) : Option Word :=
  match vector.toNat with
  | 0x10 => some s.cfg.int10Off
  | 0x21 => some s.cfg.int21Off
  | _ => none

/-- `INT n` (R320): an unknown vector is fatal before anything is pushed; a known one yields its event (R322),
evaluated on the registers at the start of the instruction, and enters the handler. -/
def execInt (vector : Byte) (s : State) : Result :=
  match s.handlerOffset vector with
  | none => unknownVector 0xCD#8 vector s
  | some off =>
    .next ((s.enterInterrupt (s.pcAfter (Instr.length (.int vector))) s.cfg.biosSeg off).emit (s.eventOf vector))

/-- `IRET` (R323). -/
def execIret (s : State) : Result := .next s.returnFromInterrupt

/-- The marker no-operation (R324). -/
def execNop (s : State) : Result := .next (s.advance (Instr.length .nop))

end Sys2Proof.Machine
end

