-- ==== Sys2Proof/Machine/Jumps.lean ====
section
/-! DEFINITION. `JMP`, the fourteen conditional jumps and `LOOP` (spec/43_jumps_loop.md R250 to R269). -/

namespace Sys2Proof.Machine

/-- The target of a relative transfer of length `n`: `pc_next` plus the displacement, modulo 2^16 (R250). -/
def State.relTarget (s : State) (n : Nat) (d : Word) : Word := s.pcAfter n + d

/-- A conditional jump (R253): to the target when `cond`, to `pc_next` otherwise. -/
def condJump (cond : Bool) (n : Nat) (rel : Byte) (s : State) : Result :=
  .next (if cond then s.jump (s.relTarget n (sext16 rel)) else s.advance n)

/-- `JMP rel8` (R251). -/
def execJmpRel8 (rel : Byte) (s : State) : Result :=
  .next (s.jump (s.relTarget (Instr.length (.jmpRel8 rel)) (sext16 rel)))

/-- `JMP rel16` (R252). -/
def execJmpRel16 (rel : Word) (s : State) : Result :=
  .next (s.jump (s.relTarget (Instr.length (.jmpRel16 rel)) rel))

/-- `JO rel8` (R254): OF = 1. -/
def execJo (rel : Byte) (s : State) : Result :=
  condJump s.flags.condJo (Instr.length (.jo rel)) rel s

/-- `JNO rel8` (R255): OF = 0. -/
def execJno (rel : Byte) (s : State) : Result :=
  condJump s.flags.condJno (Instr.length (.jno rel)) rel s

/-- `JC rel8` (R256): CF = 1. -/
def execJc (rel : Byte) (s : State) : Result :=
  condJump s.flags.condJc (Instr.length (.jc rel)) rel s

/-- `JNC rel8` (R257): CF = 0. -/
def execJnc (rel : Byte) (s : State) : Result :=
  condJump s.flags.condJnc (Instr.length (.jnc rel)) rel s

/-- `JZ rel8` (R258): ZF = 1. -/
def execJz (rel : Byte) (s : State) : Result :=
  condJump s.flags.condJz (Instr.length (.jz rel)) rel s

/-- `JNZ rel8` (R259): ZF = 0. -/
def execJnz (rel : Byte) (s : State) : Result :=
  condJump s.flags.condJnz (Instr.length (.jnz rel)) rel s

/-- `JNA rel8` (R260): CF = 1 or ZF = 1. -/
def execJna (rel : Byte) (s : State) : Result :=
  condJump s.flags.condJna (Instr.length (.jna rel)) rel s

/-- `JA rel8` (R261): CF = 0 and ZF = 0. -/
def execJa (rel : Byte) (s : State) : Result :=
  condJump s.flags.condJa (Instr.length (.ja rel)) rel s

/-- `JS rel8` (R262): SF = 1. -/
def execJs (rel : Byte) (s : State) : Result :=
  condJump s.flags.condJs (Instr.length (.js rel)) rel s

/-- `JNS rel8` (R263): SF = 0. -/
def execJns (rel : Byte) (s : State) : Result :=
  condJump s.flags.condJns (Instr.length (.jns rel)) rel s

/-- `JL rel8` (R264): SF ≠ OF. -/
def execJl (rel : Byte) (s : State) : Result :=
  condJump s.flags.condJl (Instr.length (.jl rel)) rel s

/-- `JGE rel8` (R265): SF = OF. -/
def execJge (rel : Byte) (s : State) : Result :=
  condJump s.flags.condJge (Instr.length (.jge rel)) rel s

/-- `JLE rel8` (R266): ZF = 1 or SF ≠ OF. -/
def execJle (rel : Byte) (s : State) : Result :=
  condJump s.flags.condJle (Instr.length (.jle rel)) rel s

/-- `JG rel8` (R267): ZF = 0 and SF = OF. -/
def execJg (rel : Byte) (s : State) : Result :=
  condJump s.flags.condJg (Instr.length (.jg rel)) rel s

/-- `LOOP rel8` (R268): CX is decremented, no flag written; the jump is taken while CX is not 0. -/
def execLoop (rel : Byte) (s : State) : Result :=
  let t := s.setReg16 .cx (s.reg16 .cx - 1#16)
  condJump (t.reg16 .cx != 0#16) (Instr.length (.loop rel)) rel t

end Sys2Proof.Machine
end

