-- ==== Sys2Proof/Machine/Mov.lean ====
section
/-! DEFINITION. The twelve forms of `MOV` (spec/40_mov.md R150 to R162): the source is read in full, the destination
written, no flag changed, `pc` at `pc_next`. -/

namespace Sys2Proof.Machine

/-- `MOV r/m8, r8` (R151): `WriteRM(1, ReadReg(1))`. -/
def execMovRm8R8 (dst : RM8) (src : Reg8) (s : State) : Result :=
  .next ((s.writeRm8 dst (s.reg8 src)).advance (Instr.length (.movRm8R8 dst src)))

/-- `MOV r/m16, r16` (R152): `WriteRM(2, ReadReg(2))`. -/
def execMovRm16R16 (dst : RM16) (src : Reg16) (s : State) : Result :=
  .next ((s.writeRm16 dst (s.reg16 src)).advance (Instr.length (.movRm16R16 dst src)))

/-- `MOV r8, r/m8` (R153): `WriteReg(1, ReadRM(1))`. -/
def execMovR8Rm8 (dst : Reg8) (src : RM8) (s : State) : Result :=
  .next ((s.setReg8 dst (s.readRm8 src)).advance (Instr.length (.movR8Rm8 dst src)))

/-- `MOV r16, r/m16` (R154): `WriteReg(2, ReadRM(2))`; the address comes from the old registers. -/
def execMovR16Rm16 (dst : Reg16) (src : RM16) (s : State) : Result :=
  .next ((s.setReg16 dst (s.readRm16 src)).advance (Instr.length (.movR16Rm16 dst src)))

/-- `MOV AL, [off]` (R155). -/
def execMovAlOff (off : Word) (s : State) : Result :=
  .next ((s.setReg8 .al (s.byteAt (s.directAddress off))).advance (Instr.length (.movAlOff off)))

/-- `MOV AX, [off]` (R156). -/
def execMovAxOff (off : Word) (s : State) : Result :=
  .next ((s.setReg16 .ax (s.wordAt (s.directAddress off))).advance (Instr.length (.movAxOff off)))

/-- `MOV [off], AL` (R157). -/
def execMovOffAl (off : Word) (s : State) : Result :=
  .next ((s.setByte (s.directAddress off) (s.reg8 .al)).advance (Instr.length (.movOffAl off)))

/-- `MOV [off], AX` (R158). -/
def execMovOffAx (off : Word) (s : State) : Result :=
  .next ((s.setWord (s.directAddress off) (s.reg16 .ax)).advance (Instr.length (.movOffAx off)))

/-- `MOV r8, imm8` (R159). -/
def execMovR8Imm8 (dst : Reg8) (imm : Byte) (s : State) : Result :=
  .next ((s.setReg8 dst imm).advance (Instr.length (.movR8Imm8 dst imm)))

/-- `MOV r16, imm16` (R160). -/
def execMovR16Imm16 (dst : Reg16) (imm : Word) (s : State) : Result :=
  .next ((s.setReg16 dst imm).advance (Instr.length (.movR16Imm16 dst imm)))

/-- `MOV r/m8, imm8` (R161). -/
def execMovRm8Imm8 (dst : RM8) (imm : Byte) (s : State) : Result :=
  .next ((s.writeRm8 dst imm).advance (Instr.length (.movRm8Imm8 dst imm)))

/-- `MOV r/m16, imm16` (R162). -/
def execMovRm16Imm16 (dst : RM16) (imm : Word) (s : State) : Result :=
  .next ((s.writeRm16 dst imm).advance (Instr.length (.movRm16Imm16 dst imm)))

end Sys2Proof.Machine
end

