-- ==== Sys2Proof/Machine/MulDiv.lean ====
section
/-! DEFINITION. `MUL`, `DIV` and `IDIV` (spec/41_add_sub_mul_div.md R201 to R207): products and quotients are computed
exactly and narrowed once; flags the spec leaves undefined are drawn; a division the spec calls a `DivideError`
stops with the state as it was. -/

namespace Sys2Proof.Machine

/-- The quotient and remainder of unsigned division, and `none` for a zero divisor or a quotient above `most`
(R203, R204). -/
def divUnsigned (most n d : Nat) : Option (Nat × Nat) :=
  if d = 0 then none else if n / d > most then none else some (n / d, n % d)

/-- The quotient rounded toward zero and the remainder `n - q * d`, and `none` for a zero divisor or a quotient
outside `-most .. most` (R205, R206). -/
def divSigned (most n d : Int) : Option (Int × Int) :=
  if d = 0 then none
  else if n.tdiv d > most ∨ n.tdiv d < -most then none
  else some (n.tdiv d, n - n.tdiv d * d)

/-- The end of a byte division: AL the quotient, AH the remainder, the four arithmetic flags drawn; `DivideError`
where there is none (R203, R205). -/
def finishDiv8 (opcode : Byte) (length : Nat) (o : Option (Byte × Byte)) (s : State) : Result :=
  match o with
  | none => divideError opcode s
  | some (q, r) => .next ((((s.setReg8 .al q).setReg8 .ah r).setDivFlags).advance length)

/-- The end of a word division: AX the quotient, DX the remainder (R204, R206). -/
def finishDiv16 (opcode : Byte) (length : Nat) (o : Option (Word × Word)) (s : State) : Result :=
  match o with
  | none => divideError opcode s
  | some (q, r) => .next ((((s.setReg16 .ax q).setReg16 .dx r).setDivFlags).advance length)

/-- The dividend `{DX, AX}` of a word division (R204). -/
def State.dividend32 (s : State) : BitVec 32 := s.reg16 .dx ++ s.reg16 .ax

/-- `MUL r/m8` (R201): AX is the exact product of AL and the operand. -/
def execMulRm8 (src : RM8) (s : State) : Result :=
  let p : Word := zext16 (s.reg8 .al) * zext16 (s.readRm8 src)
  .next (((s.setReg16 .ax p).setMulFlags (hi8 p != 0#8)).advance (Instr.length (.mulRm8 src)))

/-- `MUL r/m16` (R202): DX:AX is the exact product of AX and the operand. -/
def execMulRm16 (src : RM16) (s : State) : Result :=
  let p : BitVec 32 := zext32 (s.reg16 .ax) * zext32 (s.readRm16 src)
  let low : Word := p.extractLsb' 0 16
  let high : Word := p.extractLsb' 16 16
  .next ((((s.setReg16 .ax low).setReg16 .dx high).setMulFlags (high != 0#16)).advance
    (Instr.length (.mulRm16 src)))

/-- `DIV r/m8` (R203). -/
def execDivRm8 (src : RM8) (s : State) : Result :=
  finishDiv8 0xF6#8 (Instr.length (.divRm8 src))
    ((divUnsigned 255 (s.reg16 .ax).toNat (s.readRm8 src).toNat).map
      (fun qr => (BitVec.ofNat 8 qr.1, BitVec.ofNat 8 qr.2))) s

/-- `DIV r/m16` (R204). -/
def execDivRm16 (src : RM16) (s : State) : Result :=
  finishDiv16 0xF7#8 (Instr.length (.divRm16 src))
    ((divUnsigned 65535 s.dividend32.toNat (s.readRm16 src).toNat).map
      (fun qr => (BitVec.ofNat 16 qr.1, BitVec.ofNat 16 qr.2))) s

/-- `IDIV r/m8` (R205). -/
def execIdivRm8 (src : RM8) (s : State) : Result :=
  finishDiv8 0xF6#8 (Instr.length (.idivRm8 src))
    ((divSigned 127 (s.reg16 .ax).toInt (s.readRm8 src).toInt).map
      (fun qr => (BitVec.ofInt 8 qr.1, BitVec.ofInt 8 qr.2))) s

/-- `IDIV r/m16` (R206). -/
def execIdivRm16 (src : RM16) (s : State) : Result :=
  finishDiv16 0xF7#8 (Instr.length (.idivRm16 src))
    ((divSigned 32767 s.dividend32.toInt (s.readRm16 src).toInt).map
      (fun qr => (BitVec.ofInt 16 qr.1, BitVec.ofInt 16 qr.2))) s

end Sys2Proof.Machine
end

