-- ==== Sys2Proof/Machine/Stack.lean ====
section
/-! DEFINITION. `PUSH`, `POP`, `CALL` and `RET` (spec/44_stack_call_ret.md R290 to R297). -/

namespace Sys2Proof.Machine

/-- `PUSH r16` (R292): the register's value at the start is pushed; `PUSH SP` (54) is the fatal `RefusedForm`. -/
def execPushR16 (src : Reg16) (s : State) : Result :=
  if src = .sp then refusedForm 0x54#8 s
  else .next ((s.push16 (s.reg16 src)).advance (Instr.length (.pushR16 src)))

/-- `POP r16` (R293): SP is incremented first and the register written afterwards, so `POP SP` leaves the popped
word in SP. -/
def execPopR16 (dst : Reg16) (s : State) : Result :=
  .next ((s.dropWord.setReg16 dst s.stackTop).advance (Instr.length (.popR16 dst)))

/-- `CALL rel16` (R294): `pc_next` is pushed; the target is relative to it. -/
def execCallRel16 (rel : Word) (s : State) : Result :=
  .next ((s.push16 (s.pcAfter (Instr.length (.callRel16 rel)))).jump
    (s.pcAfter (Instr.length (.callRel16 rel)) + rel))

/-- `RET` (R295): `pc <- Pop16()`. -/
def execRet (s : State) : Result := .next (s.dropWord.jump s.stackTop)

end Sys2Proof.Machine
end

