-- ==== Sys2Proof/Machine/Dispatch.lean ====
section
/-! DEFINITION. The dispatch: one arm per constructor of Instr, each one direct call of that instruction's meaning
(spec/30_encoding.md R113). -/

namespace Sys2Proof.Machine

def exec (i : Instr) (s : State) : Host.Outcome State Fault Refusal :=
  match i with
  | .movRm8R8 dst src => Sys2Proof.Machine.execMovRm8R8 dst src s
  | .movRm16R16 dst src => Sys2Proof.Machine.execMovRm16R16 dst src s
  | .movR8Rm8 dst src => Sys2Proof.Machine.execMovR8Rm8 dst src s
  | .movR16Rm16 dst src => Sys2Proof.Machine.execMovR16Rm16 dst src s
  | .movAlOff off => Sys2Proof.Machine.execMovAlOff off s
  | .movAxOff off => Sys2Proof.Machine.execMovAxOff off s
  | .movOffAl off => Sys2Proof.Machine.execMovOffAl off s
  | .movOffAx off => Sys2Proof.Machine.execMovOffAx off s
  | .movR8Imm8 dst imm => Sys2Proof.Machine.execMovR8Imm8 dst imm s
  | .movR16Imm16 dst imm => Sys2Proof.Machine.execMovR16Imm16 dst imm s
  | .movRm8Imm8 dst imm => Sys2Proof.Machine.execMovRm8Imm8 dst imm s
  | .movRm16Imm16 dst imm => Sys2Proof.Machine.execMovRm16Imm16 dst imm s
  | .addRm8R8 dst src => Sys2Proof.Machine.execAddRm8R8 dst src s
  | .addRm16R16 dst src => Sys2Proof.Machine.execAddRm16R16 dst src s
  | .addR8Rm8 dst src => Sys2Proof.Machine.execAddR8Rm8 dst src s
  | .addR16Rm16 dst src => Sys2Proof.Machine.execAddR16Rm16 dst src s
  | .addAlImm8 imm => Sys2Proof.Machine.execAddAlImm8 imm s
  | .addAxImm16 imm => Sys2Proof.Machine.execAddAxImm16 imm s
  | .addRm8Imm8 dst imm => Sys2Proof.Machine.execAddRm8Imm8 dst imm s
  | .addRm16Imm16 dst imm => Sys2Proof.Machine.execAddRm16Imm16 dst imm s
  | .addRm16Imm8 dst imm => Sys2Proof.Machine.execAddRm16Imm8 dst imm s
  | .subRm8R8 dst src => Sys2Proof.Machine.execSubRm8R8 dst src s
  | .subRm16R16 dst src => Sys2Proof.Machine.execSubRm16R16 dst src s
  | .subR8Rm8 dst src => Sys2Proof.Machine.execSubR8Rm8 dst src s
  | .subR16Rm16 dst src => Sys2Proof.Machine.execSubR16Rm16 dst src s
  | .subAlImm8 imm => Sys2Proof.Machine.execSubAlImm8 imm s
  | .subAxImm16 imm => Sys2Proof.Machine.execSubAxImm16 imm s
  | .subRm8Imm8 dst imm => Sys2Proof.Machine.execSubRm8Imm8 dst imm s
  | .subRm16Imm16 dst imm => Sys2Proof.Machine.execSubRm16Imm16 dst imm s
  | .subRm16Imm8 dst imm => Sys2Proof.Machine.execSubRm16Imm8 dst imm s
  | .mulRm8 src => Sys2Proof.Machine.execMulRm8 src s
  | .mulRm16 src => Sys2Proof.Machine.execMulRm16 src s
  | .divRm8 src => Sys2Proof.Machine.execDivRm8 src s
  | .divRm16 src => Sys2Proof.Machine.execDivRm16 src s
  | .idivRm8 src => Sys2Proof.Machine.execIdivRm8 src s
  | .idivRm16 src => Sys2Proof.Machine.execIdivRm16 src s
  | .incR16 dst => Sys2Proof.Machine.execIncR16 dst s
  | .decR16 dst => Sys2Proof.Machine.execDecR16 dst s
  | .incRm8 dst => Sys2Proof.Machine.execIncRm8 dst s
  | .decRm8 dst => Sys2Proof.Machine.execDecRm8 dst s
  | .incRm16 dst => Sys2Proof.Machine.execIncRm16 dst s
  | .decRm16 dst => Sys2Proof.Machine.execDecRm16 dst s
  | .jmpRel8 rel => Sys2Proof.Machine.execJmpRel8 rel s
  | .jmpRel16 rel => Sys2Proof.Machine.execJmpRel16 rel s
  | .jo rel => Sys2Proof.Machine.execJo rel s
  | .jno rel => Sys2Proof.Machine.execJno rel s
  | .jc rel => Sys2Proof.Machine.execJc rel s
  | .jnc rel => Sys2Proof.Machine.execJnc rel s
  | .jz rel => Sys2Proof.Machine.execJz rel s
  | .jnz rel => Sys2Proof.Machine.execJnz rel s
  | .jna rel => Sys2Proof.Machine.execJna rel s
  | .ja rel => Sys2Proof.Machine.execJa rel s
  | .js rel => Sys2Proof.Machine.execJs rel s
  | .jns rel => Sys2Proof.Machine.execJns rel s
  | .jl rel => Sys2Proof.Machine.execJl rel s
  | .jge rel => Sys2Proof.Machine.execJge rel s
  | .jle rel => Sys2Proof.Machine.execJle rel s
  | .jg rel => Sys2Proof.Machine.execJg rel s
  | .loop rel => Sys2Proof.Machine.execLoop rel s
  | .pushR16 src => Sys2Proof.Machine.execPushR16 src s
  | .popR16 dst => Sys2Proof.Machine.execPopR16 dst s
  | .callRel16 rel => Sys2Proof.Machine.execCallRel16 rel s
  | .ret => Sys2Proof.Machine.execRet s
  | .int vector => Sys2Proof.Machine.execInt vector s
  | .iret => Sys2Proof.Machine.execIret s
  | .nop => Sys2Proof.Machine.execNop s

end Sys2Proof.Machine
end

