-- ==== Sys2Proof/Machine/Step.lean ====
section
/-! DEFINITION. One step of the machine (spec/00_scope.md R6): the instruction at CS:IP is fetched, decoded and
executed. Whatever a test could show wrong is in the operations it calls. -/

namespace Sys2Proof.Machine

/-- One step (00_scope.md R6, 30_encoding.md section 6, 60_exceptions.md R357): the next state, or the fatal report
of the decoder or of the instruction. -/
def step (s : State) : Host.Outcome State Fault Refusal :=
  match s.decodeNext with
  | .ok i => exec i s
  | .error e => .fault (decodeFault s.ip e)

/-- The instruction given as a number (first byte in bits 7..0) stored at CS:IP, where `step` fetches; the bits from
`nbits` on are zero, up to the longest instruction (notes/assumptions/8.md). -/
def State.withFetchWord (s : State) (nbits w : Nat) : State := s.placeInstr nbits w

end Sys2Proof.Machine
end

