-- ==== Sys2Proof/Machine/Boot.lean ====
section
/-! DEFINITION. What the host does to the machine before its first step (spec/70_reset_and_hazards.md R392 to
R395): load a program, write the interrupt procedures, set the entry. Reset is `State.resetWith`. -/

namespace Sys2Proof.Machine

/-- Load (R393): byte `i` of the program at `(origin + i) mod 65536`; a program longer than 65536 bytes cannot be
loaded. -/
def State.load (s : State) (origin : Word) (program : List Byte) : Option State :=
  if program.length ≤ 65536 then some (s.storeBytes origin program) else none

/-- `WriteInterruptProcedure(n)` (R394): `MARKER_OPCODE` and the byte of `IRET` at the entry point of vector `n`; no
operation for another vector. -/
def State.writeInterruptProcedure (s : State) (vector : Byte) : Option State :=
  (s.handlerOffset vector).map (fun off =>
    (s.setByte (s.phys s.cfg.biosSeg off) s.cfg.markerOpcode).setByte (s.phys s.cfg.biosSeg (off + 1)) 0xCF#8)

/-- Entry (R395): `pc` at the load origin, CS = 0. -/
def State.setEntry (s : State) (origin : Word) : State := s.farJump 0#16 origin

/-- The constraints between the parameters (92_eei_decisions.md, "Constraints between parameters"): two different
handler offsets, four different stub addresses, a marker that is no other recognised first byte. -/
def parametersConsistent (c : Config) : Bool :=
  let s := State.resetWith c
  c.int10Off != c.int21Off &&
  decide ([s.phys c.biosSeg c.int10Off, s.phys c.biosSeg (c.int10Off + 1#16), s.phys c.biosSeg c.int21Off,
    s.phys c.biosSeg (c.int21Off + 1#16)].Nodup) &&
  !recognisedFirstByte c.markerOpcode

/-- The boot order of R392: reset, load at `ENTRY`, both interrupt procedures, entry. -/
def boot (c : Config) (program : List Byte) : Option State :=
  ((State.resetWith c).load c.entry program).bind (fun s =>
    (s.writeInterruptProcedure 0x10#8).bind (fun t =>
      (t.writeInterruptProcedure 0x21#8).map (fun u => u.setEntry c.entry)))

end Sys2Proof.Machine
end

