-- ==== Sys2Proof/Safety.lean ====
section
/-! DEFINITION. What counts as a run and how it ends (spec/70_reset_and_hazards.md R396, R397), and the words the
statements use: the report of a fatal step, the invariant of memory, what an instruction leaves unchanged (its
frame), where a result stands. -/

namespace Sys2Proof.Machine

/-! ### Runs (70_reset_and_hazards.md R396, R397) -/

/-- The run is over: `pc` = `STOP` with CS = 0 (R397). -/
def State.completed (stop : Word) (s : State) : Bool := s.ip == stop && s.cs == 0#16

/-- The default `STOP`: the first byte after the loaded program (R397). -/
def defaultStop (c : Config) (program : List Byte) : Word := c.entry + BitVec.ofNat 16 program.length

/-- How a run ends (R396). -/
inductive RunResult where
  | completed (s : State)
  | failed (report : Fault) (s : State)
  | outOfBudget (s : State)
  | refused (reason : Refusal) (s : State)
  deriving DecidableEq, Repr

/-- `Run(s, budget)` of R396; a failed step leaves the state as it was before it (60_exceptions.md R357). -/
def run (stop : Word) : Nat → State → RunResult
  | 0, s => if s.completed stop then .completed s else .outOfBudget s
  | budget + 1, s =>
    if s.completed stop then .completed s
    else
      match step s with
      | .next t => run stop budget t
      | .fault f => .failed f s
      | .refused r => .refused r s

/-! ### The report of a fatal step (60_exceptions.md R358) -/

/-- The opcode byte of a report. -/
def Fault.opcode : Fault → Byte
  | .unrecognizedOpcode opcode _ => opcode
  | .unimplementedAddressingMode opcode _ _ => opcode
  | .unknownInterruptVector opcode _ _ => opcode
  | .divideError opcode _ => opcode
  | .refusedForm opcode _ => opcode

/-- The offset a report carries. -/
def Fault.ip : Fault → Word
  | .unrecognizedOpcode _ ip => ip
  | .unimplementedAddressingMode _ ip _ => ip
  | .unknownInterruptVector _ ip _ => ip
  | .divideError _ ip => ip
  | .refusedForm _ ip => ip

/-! ### Words for the statements -/

/-- The invariant of memory: its canonical form. -/
def State.Inv (s : State) : Prop := Memory.wf s.mem = true

/-- The outcome with a change made to its next state. -/
def mapNext (f : State → State) : Result → Result
  | .next t => .next (f t)
  | .fault r => .fault r
  | .refused r => .refused r

/-- The state with another value in ES. -/
def State.withEs (s : State) (v : Word) : State := { s with es := v }

/-- The state with no event. -/
def State.withoutEvents (s : State) : State := { s with events := [] }

/-- A question of `EVENT_OF` about a segment register. -/
def questionAsksSeg (g : Seg) : EventTest → Bool
  | .vectorIs _ => false
  | .reg8Is _ _ => false
  | .reg16Is _ _ => false
  | .segIs h _ => h == g
  | .ipIs _ => false
  | .cfSet => false
  | .zfSet => false
  | .sfSet => false
  | .ofSet => false
  | .idfSet => false

/-- An `EVENT_OF` that asks about a segment register. -/
def eventAsksSeg (g : Seg) : EventChoice → Bool
  | .nothing => false
  | .print _ => false
  | .printReg _ => false
  | .test q yes no => questionAsksSeg g q || eventAsksSeg g yes || eventAsksSeg g no

/-- The state with another value of IDF. -/
def State.withIdf (s : State) (b : Bool) : State := s.setFlags { s.flags with idf := b }

/-- The state with earlier events before its own. -/
def State.withEarlierEvents (s : State) (earlier : List Event) : State :=
  { s with events := earlier ++ s.events }

/-- What a step from `s` to `t` leaves alone: every general register but `regs`, every segment register, every
byte of memory but those at `bytes`, the event stream and the parameters. -/
structure Frame (s t : State) (regs : List Reg16) (bytes : List Word) : Prop where
  regs_kept : ∀ r : Reg16, r ∉ regs → t.reg16 r = s.reg16 r
  segs_kept : ∀ g : Seg, t.seg g = s.seg g
  bytes_kept : ∀ a : Word, a ∉ bytes → t.byteAt a = s.byteAt a
  events_kept : t.events = s.events
  cfg_kept : t.cfg = s.cfg

/-- The 16-bit registers an `r/m8` destination lies in. -/
def destRegs8 : RM8 → List Reg16
  | .reg r => [whole r]
  | .mem _ => []

/-- The register an `r/m16` destination is. -/
def destRegs16 : RM16 → List Reg16
  | .reg r => [r]
  | .mem _ => []

/-- The two bytes of the word at an address (20_memory.md R63). -/
def wordSpan (a : Word) : List Word := [a, a + 1#16]

/-- The byte an `r/m8` destination stores to, by the address computed in `s`. -/
def storedBytes8 (s : State) : RM8 → List Word
  | .reg _ => []
  | .mem m => [s.operandAddress m]

/-- The bytes an `r/m16` destination stores to, by the address computed in `s`. -/
def storedBytes16 (s : State) : RM16 → List Word
  | .reg _ => []
  | .mem m => wordSpan (s.operandAddress m)

/-- After the step the `r/m8` destination, at the address computed in `s`, holds `v`, and every 8-bit register that
is not the destination is as before (10_state.md R23). -/
def Holds8 (s t : State) (dst : RM8) (v : Byte) : Prop :=
  (match dst with
    | .reg r => t.reg8 r = v
    | .mem m => t.byteAt (s.operandAddress m) = v) ∧
  ∀ q : Reg8, dst ≠ .reg q → t.reg8 q = s.reg8 q

/-- After the step the `r/m16` destination, at the address computed in `s`, holds `v`. -/
def Holds16 (s t : State) (dst : RM16) (v : Word) : Prop :=
  match dst with
  | .reg r => t.reg16 r = v
  | .mem m => t.wordAt (s.operandAddress m) = v

/-- CF, ZF, SF, OF are those of the sum of `a` and `b` (41 R180), OF by the signed range, and IDF is as before. -/
def SumFlags {n : Nat} (s t : State) (a b : BitVec n) : Prop :=
  t.flags.cf = decide (2 ^ n ≤ a.toNat + b.toNat) ∧
  t.flags.zf = decide (a + b = 0#n) ∧
  t.flags.sf = (a + b).msb ∧
  (t.flags.of = true ↔ a.toInt + b.toInt < -2 ^ (n - 1) ∨ 2 ^ (n - 1) ≤ a.toInt + b.toInt) ∧
  t.flags.idf = s.flags.idf

/-- CF, ZF, SF, OF are those of the difference of `a` and `b` (41 R181), OF by the signed range, and IDF is as
before. -/
def DifferenceFlags {n : Nat} (s t : State) (a b : BitVec n) : Prop :=
  t.flags.cf = decide (a.toNat < b.toNat) ∧
  t.flags.zf = decide (a - b = 0#n) ∧
  t.flags.sf = (a - b).msb ∧
  (t.flags.of = true ↔ a.toInt - b.toInt < -2 ^ (n - 1) ∨ 2 ^ (n - 1) ≤ a.toInt - b.toInt) ∧
  t.flags.idf = s.flags.idf

/-- The bytes of a form with a ModRM byte whose `rm` operand is 8 bits wide: opcode byte, ModRM byte,
displacement, immediate (30_encoding.md R102). -/
def modRMBytes8 (opcode : Byte) (reg : BitVec 3) (rm : RM8) (imm : List Byte) : List Byte :=
  opcode :: rm.modRM Reg8.index reg :: (rm.dispBytes ++ imm)

/-- The same with a 16-bit `rm` operand. -/
def modRMBytes16 (opcode : Byte) (reg : BitVec 3) (rm : RM16) (imm : List Byte) : List Byte :=
  opcode :: rm.modRM Reg16.index reg :: (rm.dispBytes ++ imm)

/-- The instruction has the encoding `bytes` and completes by copying `v` to an `r/m8` destination
(40_mov.md R150): no flag, `pc` after those bytes, the frame. -/
def CopiesByte (s : State) (i : Instr) (bytes : List Byte) (dst : RM8) (v : Byte) : Prop :=
  encode s.cfg i = bytes ∧
  ∃ t, exec i s = .next t ∧ Holds8 s t dst v ∧ t.flags = s.flags ∧ t.ip = s.pcAfter bytes.length ∧
    Frame s t (destRegs8 dst) (storedBytes8 s dst)

/-- The same for an `r/m16` destination. -/
def CopiesWord (s : State) (i : Instr) (bytes : List Byte) (dst : RM16) (v : Word) : Prop :=
  encode s.cfg i = bytes ∧
  ∃ t, exec i s = .next t ∧ Holds16 s t dst v ∧ t.flags = s.flags ∧ t.ip = s.pcAfter bytes.length ∧
    Frame s t (destRegs16 dst) (storedBytes16 s dst)

/-- The instruction has the encoding `bytes` and completes by adding `b` to an `r/m8` destination
(41 R180, R182). -/
def AddsByte (s : State) (i : Instr) (bytes : List Byte) (dst : RM8) (b : Byte) : Prop :=
  encode s.cfg i = bytes ∧
  ∃ t, exec i s = .next t ∧ Holds8 s t dst (s.readRm8 dst + b) ∧ SumFlags s t (s.readRm8 dst) b ∧
    t.ip = s.pcAfter bytes.length ∧ Frame s t (destRegs8 dst) (storedBytes8 s dst)

/-- The same for an `r/m16` destination. -/
def AddsWord (s : State) (i : Instr) (bytes : List Byte) (dst : RM16) (b : Word) : Prop :=
  encode s.cfg i = bytes ∧
  ∃ t, exec i s = .next t ∧ Holds16 s t dst (s.readRm16 dst + b) ∧ SumFlags s t (s.readRm16 dst) b ∧
    t.ip = s.pcAfter bytes.length ∧ Frame s t (destRegs16 dst) (storedBytes16 s dst)

/-- The instruction has the encoding `bytes` and completes by subtracting `b` from an `r/m8` destination
(41 R181, R182). -/
def SubtractsByte (s : State) (i : Instr) (bytes : List Byte) (dst : RM8) (b : Byte) : Prop :=
  encode s.cfg i = bytes ∧
  ∃ t, exec i s = .next t ∧ Holds8 s t dst (s.readRm8 dst - b) ∧ DifferenceFlags s t (s.readRm8 dst) b ∧
    t.ip = s.pcAfter bytes.length ∧ Frame s t (destRegs8 dst) (storedBytes8 s dst)

/-- The same for an `r/m16` destination. -/
def SubtractsWord (s : State) (i : Instr) (bytes : List Byte) (dst : RM16) (b : Word) : Prop :=
  encode s.cfg i = bytes ∧
  ∃ t, exec i s = .next t ∧ Holds16 s t dst (s.readRm16 dst - b) ∧ DifferenceFlags s t (s.readRm16 dst) b ∧
    t.ip = s.pcAfter bytes.length ∧ Frame s t (destRegs16 dst) (storedBytes16 s dst)

/-- The flags of `INC` and `DEC` (42 R230): ZF and SF of the result, OF exactly when the result is `edge`, CF and
IDF as before. -/
def StepFlags {n : Nat} (s t : State) (result edge : BitVec n) : Prop :=
  t.flags.zf = decide (result = 0#n) ∧ t.flags.sf = result.msb ∧ t.flags.of = decide (result = edge) ∧
  t.flags.cf = s.flags.cf ∧ t.flags.idf = s.flags.idf

/-- The instruction has the encoding `bytes` and completes by putting `v` in an `r/m8` destination with the flags
of `INC` or `DEC`. -/
def StepsByte (s : State) (i : Instr) (bytes : List Byte) (dst : RM8) (v edge : Byte) : Prop :=
  encode s.cfg i = bytes ∧
  ∃ t, exec i s = .next t ∧ Holds8 s t dst v ∧ StepFlags s t v edge ∧ t.ip = s.pcAfter bytes.length ∧
    Frame s t (destRegs8 dst) (storedBytes8 s dst)

/-- The same for an `r/m16` destination. -/
def StepsWord (s : State) (i : Instr) (bytes : List Byte) (dst : RM16) (v edge : Word) : Prop :=
  encode s.cfg i = bytes ∧
  ∃ t, exec i s = .next t ∧ Holds16 s t dst v ∧ StepFlags s t v edge ∧ t.ip = s.pcAfter bytes.length ∧
    Frame s t (destRegs16 dst) (storedBytes16 s dst)

/-- The instruction completes, leaves the quotient in `q` and the remainder in `r` of a division whose four
arithmetic flags are free values, and changes nothing else but `pc`, which ends after `bytes` (41 R203 to R207). -/
def Divides {ρ β : Type} (s : State) (i : Instr) (bytes : List Byte) (read : State → ρ → β) (q r : ρ)
    (quotient remainder : β) (regs : List Reg16) : Prop :=
  ∃ t, exec i s = .next t ∧ read t q = quotient ∧ read t r = remainder ∧ t.flags.idf = s.flags.idf ∧
    t.ip = s.pcAfter bytes.length ∧ Frame s t regs []

/-- The instruction has the encoding `bytes` and completes by setting `pc` alone: when `taken`, to `pc_next` plus
`d`, and to `pc_next` otherwise (43 R250, R253). -/
def Transfers (s : State) (i : Instr) (bytes : List Byte) (taken : Bool) (d : Word) : Prop :=
  encode s.cfg i = bytes ∧
  ∃ t, exec i s = .next t ∧
    t.ip = (if taken then s.pcAfter bytes.length + d else s.pcAfter bytes.length) ∧
    t.flags = s.flags ∧ Frame s t [] []

/-- The two instructions do the same in `s`, but for where `pc` ends. -/
def SameButForPc (s : State) (i j : Instr) : Prop :=
  mapNext (·.jump 0#16) (exec i s) = mapNext (·.jump 0#16) (exec j s)

/-- The forms with an `r/m8` operand (30_encoding.md R114, R115), each as a function of that operand. -/
def formsRm8 (r : Reg8) (imm : Byte) : List (RM8 → Instr) :=
  [(.movRm8R8 · r), .movR8Rm8 r, (.movRm8Imm8 · imm), (.addRm8R8 · r), .addR8Rm8 r, (.addRm8Imm8 · imm),
    (.subRm8R8 · r), .subR8Rm8 r, (.subRm8Imm8 · imm), .mulRm8, .divRm8, .idivRm8, .incRm8, .decRm8]

/-- The forms with an `r/m16` operand (30_encoding.md R114, R115), each as a function of that operand. -/
def formsRm16 (r : Reg16) (imm : Word) (imm8 : Byte) : List (RM16 → Instr) :=
  [(.movRm16R16 · r), .movR16Rm16 r, (.movRm16Imm16 · imm), (.addRm16R16 · r), .addR16Rm16 r,
    (.addRm16Imm16 · imm), (.addRm16Imm8 · imm8), (.subRm16R16 · r), .subR16Rm16 r, (.subRm16Imm16 · imm),
    (.subRm16Imm8 · imm8), .mulRm16, .divRm16, .idivRm16, .incRm16, .decRm16]

/-- With the memory operand `m` or with `n`, every form that has an `r/m` operand does the same in `s`, but for
where `pc` ends. -/
def SameOperand (s : State) (m n : MemOp) : Prop :=
  (∀ (r : Reg8) (imm : Byte), ∀ form ∈ formsRm8 r imm, SameButForPc s (form (.mem m)) (form (.mem n))) ∧
  ∀ (r : Reg16) (imm : Word) (imm8 : Byte), ∀ form ∈ formsRm16 r imm imm8,
    SameButForPc s (form (.mem m)) (form (.mem n))

/-- `low` and `high` are the low and the high half of `x` (10_state.md R22, R23): what they read, what writing `v`
to one of them makes of `x`, and no other 16-bit register written. -/
def HalvesOf (s : State) (v : Byte) (low high : Reg8) (x : Reg16) : Prop :=
  s.reg8 low = (s.reg16 x).extractLsb' 0 8 ∧
  s.reg8 high = (s.reg16 x).extractLsb' 8 8 ∧
  (s.setReg8 low v).reg16 x = (s.reg16 x).extractLsb' 8 8 ++ v ∧
  (s.setReg8 high v).reg16 x = v ++ (s.reg16 x).extractLsb' 0 8 ∧
  ∀ q, q ≠ x → (s.setReg8 low v).reg16 q = s.reg16 q ∧ (s.setReg8 high v).reg16 q = s.reg16 q

/-- The six bytes an interrupt frame takes, at `Phys(SS, SP - 6)` and the five addresses above
(45_int_iret.md R320). -/
def interruptFrame (s : State) : List Word :=
  (List.range 6).map (fun k => s.phys s.ss (s.reg16 .sp - 6#16) + BitVec.ofNat 16 k)

end Sys2Proof.Machine
end

