-- ==== Sys2Proof/Certificates/Slice0/Obligations.lean ====
section
/-! DEFINITION. The statements for the provers, one `def Obligations.<Name> : Prop` each, with the rule or the
sections of spec/ it formalises. Where a statement rests on a choice of the spec's own (a decision D<n> of
92_eei_decisions.md) or of the model's, its docstring says so and names the log entry. -/

open Sys2Proof Sys2Proof.Machine

/-! ### Encoding -/

/-- Every well-formed instruction the parameters accept decodes back from its bytes, whatever follows them: no bit
of an encoding is dropped (30_encoding.md sections 1, 4 and 6). For the marker the parameter constraint of
92_eei_decisions.md is assumed: `MARKER_OPCODE` is not another recognised first byte (notes/assumptions/9.md). -/
def Obligations.DecodeOfEncodeIsTheInstruction : Prop :=
  ∀ (c : Config) (i : Instr) (tail : List Byte),
    i.wellFormed = true → c.accepts i = true → (i = .nop → recognisedFirstByte c.markerOpcode = false) →
      decode c (bytesOf (encode c i ++ tail)) = .ok i

/-- Whatever the decoder accepts is well formed, and encoding it gives back the very bytes it was read from:
"every bit of every byte of a recognised instruction is a field" (30_encoding.md R120, which the spec marks as
derived). -/
def Obligations.EncodeOfDecodeIsTheBytes : Prop :=
  ∀ (c : Config) (w : Nat → Byte) (i : Instr), decode c w = .ok i →
    i.wellFormed = true ∧ encode c i = (List.range i.length).map w

/-- The index tables of the 16-bit and of the 8-bit registers in each of their fields, the `rm` table of memory
operands under each `mod`, and a few words of the spec's own examples, decode to what they stand for (10_state.md
section 1, 30_encoding.md sections 1 and 2, 95_test_vectors.md, vectors V151, V154bp, V190, V160, V162, V200, V205,
V236, V252, V264, V293, V294, V320, and the two longest words, from the corner cases of `C7 /0` in 40_mov.md). The
index and `rm` tables are from general knowledge by the spec's own word (91_not_in_source.md). -/
def Obligations.SampleWordsDecode : Prop :=
  let decodes := fun (bytes : List Byte) (i : Instr) => decode Config.default (bytesOf bytes) = .ok i
  let eight := fun (bytes : Byte → List Byte) (is : List Instr) =>
    (List.range 8).map (fun k => decode Config.default (bytesOf (bytes (BitVec.ofNat 8 k)))) =
      is.map (fun i => Except.ok i)
  let words : List Reg16 := [.ax, .cx, .dx, .bx, .sp, .bp, .si, .di]
  let halves : List Reg8 := [.al, .cl, .dl, .bl, .ah, .ch, .dh, .bh]
  let bases : List Base := [.bxSi, .bxDi, .bpSi, .bpDi, .si, .di, .bp, .bx]
  -- the index in the opcode byte, in the `reg` field, in the `rm` field
  eight (fun k => [0xB8 + k, 0x34, 0x12]) (words.map (.movR16Imm16 · 0x1234)) ∧
  eight (fun k => [0x8B, 0x07 + 8 * k]) (words.map (.movR16Rm16 · (.mem (.base .bx)))) ∧
  eight (fun k => [0x8B, 0xC0 + k]) (words.map (fun r => .movR16Rm16 .ax (.reg r))) ∧
  eight (fun k => [0xB0 + k, 0x12]) (halves.map (.movR8Imm8 · 0x12)) ∧
  eight (fun k => [0x8A, 0x07 + 8 * k]) (halves.map (.movR8Rm8 · (.mem (.base .bx)))) ∧
  eight (fun k => [0x8A, 0xC0 + k]) (halves.map (fun r => .movR8Rm8 .al (.reg r))) ∧
  -- the memory operands: `mod` 00, where `rm` = 110 is a direct offset, then 01, then 10
  eight (fun k => [0x8B, k, 0x34, 0x12])
    ([MemOp.base .bxSi, .base .bxDi, .base .bpSi, .base .bpDi, .base .si, .base .di, .direct 0x1234, .base .bx].map
      (fun m => .movR16Rm16 .ax (.mem m))) ∧
  eight (fun k => [0x8B, 0x40 + k, 0xFE]) (bases.map (fun b => .movR16Rm16 .ax (.mem (.disp8 b 0xFE)))) ∧
  eight (fun k => [0x8B, 0x80 + k, 0x34, 0x12]) (bases.map (fun b => .movR16Rm16 .ax (.mem (.disp16 b 0x1234)))) ∧
  -- words of the spec
  decodes [0x88, 0x07] (.movRm8R8 (.mem (.base .bx)) .al) ∧
  decodes [0x8B, 0x46, 0xFE] (.movR16Rm16 .ax (.mem (.disp8 .bp 0xFE))) ∧
  decodes [0x81, 0xC3, 0x00, 0x10] (.addRm16Imm16 (.reg .bx) 0x1000) ∧
  decodes [0xB8, 0x34, 0x12] (.movR16Imm16 .ax 0x1234) ∧
  decodes [0xC7, 0x07, 0x34, 0x12] (.movRm16Imm16 (.mem (.base .bx)) 0x1234) ∧
  decodes [0xC7, 0x06, 0x00, 0x02, 0x34, 0x12] (.movRm16Imm16 (.mem (.direct 0x0200)) 0x1234) ∧
  decodes [0xC7, 0x87, 0x00, 0x02, 0x34, 0x12] (.movRm16Imm16 (.mem (.disp16 .bx 0x0200)) 0x1234) ∧
  decodes [0x83, 0xE9, 0x01] (.subRm16Imm8 (.reg .cx) 0x01) ∧
  decodes [0xF6, 0xFB] (.idivRm8 (.reg .bl)) ∧
  decodes [0xFF, 0x4F, 0x02] (.decRm16 (.mem (.disp8 .bx 0x02))) ∧
  decodes [0xE9, 0x0C, 0x00] (.jmpRel16 0x000C) ∧
  decodes [0x7C, 0x02] (.jl 0x02) ∧
  decodes [0x5A] (.popR16 .dx) ∧
  decodes [0xE8, 0x03, 0x00] (.callRel16 0x0003) ∧
  decodes [0xCD, 0x21] (.int 0x21)

/-- The first bytes outside the map (30_encoding.md R114, last paragraph), as ranges with both ends in them. -/
def Sys2Proof.unlistedFirstBytes : List (Nat × Nat) :=
  [(0x06, 0x27), (0x2E, 0x3F), (0x60, 0x6F), (0x7A, 0x7B), (0x82, 0x82), (0x84, 0x87), (0x8C, 0x8F), (0x91, 0x9F),
    (0xA4, 0xAF), (0xC0, 0xC2), (0xC4, 0xC5), (0xC8, 0xCC), (0xCE, 0xCE), (0xD0, 0xE1), (0xE3, 0xE7), (0xEA, 0xEA),
    (0xEC, 0xF5), (0xF8, 0xFD)]

/-- With the default parameters the decoder rejects an instruction as `UnrecognizedOpcode` with its first byte
exactly when that byte is in the ranges that 30_encoding.md section 4 lists in its last paragraph, whatever bytes
follow; and these are 157 bytes. The set is the spec's decision D1, the default marker its decision D13. -/
def Obligations.UnrecognisedFirstBytesAreTheListed157 : Prop :=
  (∀ w : Nat → Byte, decode Config.default w = .error (.unrecognizedOpcode (w 0)) ↔
    ∃ range ∈ unlistedFirstBytes, range.1 ≤ (w 0).toNat ∧ (w 0).toNat ≤ range.2) ∧
  ((List.range 256).filter
    (fun n => decide (∃ range ∈ unlistedFirstBytes, range.1 ≤ n ∧ n ≤ range.2))).length = 157

/-- A step at an unrecognised first byte is the fatal `UnrecognizedOpcode` with that byte and its offset
(30_encoding.md R116). -/
def Obligations.UnrecognisedFirstByteIsFatal : Prop :=
  ∀ s : State, recognisedFirstByte (s.fetchByte 0) = false → s.fetchByte 0 ≠ s.cfg.markerOpcode →
    step s = .fault (.unrecognizedOpcode (s.fetchByte 0) s.ip)

/-- The `reg` values a group opcode implements (30_encoding.md R115, column "`reg` values implemented"), and `none`
for a first byte that is no group opcode. -/
def Sys2Proof.groupRegs (opcode : Nat) : Option (List Nat) :=
  match opcode with
  | 0x80 => some [0, 5]
  | 0x81 => some [0, 5]
  | 0x83 => some [0, 5]
  | 0xC6 => some [0]
  | 0xC7 => some [0]
  | 0xF6 => some [4, 6, 7]
  | 0xF7 => some [4, 6, 7]
  | 0xFE => some [0, 1]
  | 0xFF => some [0, 1]
  | _ => none

/-- A group opcode is an instruction exactly on the listed `reg` values, where the parameters support the
addressing mode; every other `reg` value is `UnimplementedAddressingMode` (30_encoding.md section 4). -/
def Obligations.GroupOpcodesImplementTheListedRegValues : Prop :=
  ∀ (c : Config) (w : Nat → Byte) (regs : List Nat), groupRegs (w 0).toNat = some regs →
    if (regField w).toNat ∈ regs then c.amSupported (w 0) (w 1) = true → ∃ i, decode c w = .ok i
    else decode c w = .error (.unimplementedAddressingMode (w 0) (w 1))

/-- The first bytes whose format has a ModRM byte (60_exceptions.md R351, row 2). -/
def Sys2Proof.hasModRM (opcode : Nat) : Bool :=
  [0x00, 0x01, 0x02, 0x03, 0x28, 0x29, 0x2A, 0x2B, 0x80, 0x81, 0x83, 0x88, 0x89, 0x8A, 0x8B, 0xC6, 0xC7, 0xF6,
    0xF7, 0xFE, 0xFF].contains opcode

/-- Where `AM_SUPPORTED` is false of a ModRM-bearing form, the step is the fatal `UnimplementedAddressingMode` with
the opcode byte, its offset and the ModRM byte (30_encoding.md section 5, case (b); decisions D25, D26;
notes/assumptions/6.md). -/
def Obligations.UnsupportedAddressingModeIsFatal : Prop :=
  ∀ s : State, hasModRM (s.fetchByte 0).toNat = true →
    s.cfg.amSupported (s.fetchByte 0) (s.fetchByte 1) = false →
      step s = .fault (.unimplementedAddressingMode (s.fetchByte 0) s.ip (s.fetchByte 1))

/-! ### The step -/

/-- Where the bytes at CS:IP decode to an instruction, the step is its execution; this machine adds nothing around
it (30_encoding.md section 6, 00_scope.md section 5). -/
def Obligations.StepRunsTheDecodedInstruction : Prop :=
  ∀ (s : State) (i : Instr), decode s.cfg (fun k => s.byteAt (s.phys s.cs (s.ip + BitVec.ofNat 16 k))) = .ok i →
    step s = exec i s

/-- Where the encoding of a well-formed, accepted instruction lies at CS:IP, byte by byte modulo 2^16, the step is
its execution, whatever lies after it (30_encoding.md sections 1 and 6; "A decoder needs no look-ahead"). -/
def Obligations.StepRunsTheEncodedInstruction : Prop :=
  ∀ (s : State) (i : Instr), i.wellFormed = true → s.cfg.accepts i = true →
    (i = .nop → recognisedFirstByte s.cfg.markerOpcode = false) →
    (∀ k, k < i.length →
      s.byteAt (s.phys s.cs (s.ip + BitVec.ofNat 16 k)) = (encode s.cfg i).getD k 0#8) →
      step s = exec i s

/-- A step has exactly two outcomes: a next state with at most one event more, or a fatal report, which carries the
opcode byte of the failing instruction and the offset of that byte (00_scope.md section 5, 60_exceptions.md
section 2; which offset is reported is the spec's decision D20). -/
def Obligations.StepHasTwoOutcomes : Prop :=
  ∀ s : State,
    (∃ t, step s = .next t ∧ (t.events = s.events ∨ ∃ e, t.events = s.events ++ [e])) ∨
    ∃ f, step s = .fault f ∧ f.opcode = s.fetchByte 0 ∧ f.ip = s.ip

/-! ### Invariants of every step -/

/-- Every step keeps the canonical form of memory: rising addresses within the 65536 bytes, no zero byte listed
(20_memory.md section 1; the form is the model's, notes/assumptions/11.md). -/
def Obligations.StepKeepsMemoryCanonical : Prop :=
  ∀ s t : State, s.Inv → step s = .next t → t.Inv

/-- The memory of the reset state, and of the state after any boot, has the canonical form
(70_reset_and_hazards.md sections 1 and 2; notes/assumptions/11.md). -/
def Obligations.BootedMemoryIsCanonical : Prop :=
  State.reset.Inv ∧
  ∀ (c : Config) (program : List Byte) (s : State), boot c program = some s → s.Inv

/-- No step changes DS, ES, SS or the parameters (10_state.md section 3: "DS and SS are read by address formation
only and are never written by an instruction"; the parameters: notes/assumptions/1.md). -/
def Obligations.StepKeepsDataSegmentsAndParameters : Prop :=
  ∀ s t : State, step s = .next t → t.ds = s.ds ∧ t.es = s.es ∧ t.ss = s.ss ∧ t.cfg = s.cfg

/-- Only `INT` and `IRET` change CS or IDF (10_state.md sections 3 and 4, table of R31). -/
def Obligations.OnlyIntAndIretChangeCsAndIdf : Prop :=
  ∀ (i : Instr) (s t : State), (∀ n, i ≠ .int n) → i ≠ .iret → exec i s = .next t →
    t.cs = s.cs ∧ t.flags.idf = s.flags.idf

/-- ES is never read: with another value in ES a step has the same outcome, but for ES itself, under every choice of
the parameter `EVENT_OF` that does not ask about ES; and under one that does, ES still reaches nothing but the event
(10_state.md section 3: "ES is never read or written by any instruction of this spec"; `EVENT_OF` is an open
parameter, notes/assumptions/5.md). -/
def Obligations.EsIsNeverRead : Prop :=
  (∀ (s : State) (v : Word), eventAsksSeg .es s.cfg.eventChoice = false →
    step (s.withEs v) = mapNext (fun t => t.withEs v) (step s)) ∧
  ∀ (s : State) (v : Word),
    mapNext (fun t => t.withoutEvents) (step (s.withEs v)) =
      mapNext (fun t => (t.withEs v).withoutEvents) (step s)

/-- IDF masks nothing: with another value of IDF every instruction but `INT`, which pushes it, and `IRET`, which
replaces it, does the same; and `IRET` does exactly the same (60_exceptions.md section 3; decision D23). -/
def Obligations.IdfMasksNothing : Prop :=
  (∀ (i : Instr) (s : State) (b : Bool), (∀ n, i ≠ .int n) → i ≠ .iret →
    exec i (s.withIdf b) = mapNext (fun t => t.withIdf b) (exec i s)) ∧
  ∀ (s : State) (b : Bool), exec .iret (s.withIdf b) = exec .iret s

/-- No rule reads the event stream: with earlier events before its own a step has the same outcome, but for those
events (10_state.md section 7: "It is not state: no rule of the core reads it"; notes/assumptions/4.md). -/
def Obligations.EventStreamIsNeverRead : Prop :=
  ∀ (s : State) (earlier : List Event),
    step (s.withEarlierEvents earlier) = mapNext (fun t => t.withEarlierEvents earlier) (step s)

/-! ### Registers, memory, addresses, flags image -/

/-- AL, CL, DL, BL read the low and AH, CH, DH, BH the high half of AX, CX, DX, BX; writing one puts the value in
that half, keeps the other half and every other 16-bit register, reads back, and leaves the other seven 8-bit
registers and all other state as before (10_state.md R23). -/
def Obligations.ByteRegistersAreHalvesOfWords : Prop :=
  ∀ (s : State) (v : Byte),
    HalvesOf s v .al .ah .ax ∧ HalvesOf s v .cl .ch .cx ∧ HalvesOf s v .dl .dh .dx ∧ HalvesOf s v .bl .bh .bx ∧
    ∀ r : Reg8, (s.setReg8 r v).reg8 r = v ∧ (∀ q, q ≠ r → (s.setReg8 r v).reg8 q = s.reg8 q) ∧
      { s.setReg8 r v with regs := s.regs } = s

/-- A word in memory is little-endian, its second byte at the next address modulo 65536: a word write puts the low
byte at the address and the high byte after it, a byte write one byte, a read returns what was written, and every
other byte is as before (20_memory.md section 2; that data words are little-endian is the spec's decision D9). -/
def Obligations.WordsInMemoryAreLittleEndian : Prop :=
  ∀ (s : State) (a v : Word) (b : Byte),
    (s.setWord a v).byteAt a = lo8 v ∧ (s.setWord a v).byteAt (a + 1#16) = hi8 v ∧
    (s.setWord a v).wordAt a = v ∧
    (∀ x, x ∉ wordSpan a → (s.setWord a v).byteAt x = s.byteAt x) ∧
    (s.setByte a b).byteAt a = b ∧ (∀ x, x ≠ a → (s.setByte a b).byteAt x = s.byteAt x) ∧
    (s.wordAt a).toNat = 256 * (s.byteAt (a + 1#16)).toNat + (s.byteAt a).toNat

/-- `Phys(seg, off) = (SEG_SCALE * seg + off) mod 65536`; with segment 0 it is the offset; and the second byte of a
word at an offset is at the next offset of the same segment (20_memory.md sections 1 and 2; the formula is the
spec's decision D4, `SEG_SCALE` an open parameter, notes/assumptions/7.md). -/
def Obligations.PhysicalAddressOfSegmentAndOffset : Prop :=
  ∀ (s : State) (seg off : Word),
    (s.phys seg off).toNat = (s.cfg.segScale.toNat * seg.toNat + off.toNat) % 65536 ∧
    s.phys 0#16 off = off ∧
    s.wordAt (s.phys seg off) = mkWord (s.byteAt (s.phys seg (off + 1#16))) (s.byteAt (s.phys seg off))

/-- The operand's segment is SS when the base is BP and DS otherwise, its effective address is the base plus the
displacement modulo 2^16, an 8-bit displacement sign-extended, and its physical address is `Phys(segment, EA)`
(30_encoding.md R107, with the table of bases of section 2). A byte or a word operand in memory is read and written
at that address, a register operand is that register (30_encoding.md section 2, operand access). -/
def Obligations.MemoryOperandAddress : Prop :=
  ∀ (s : State) (off d v : Word) (d8 u : Byte) (b : Base) (m : MemOp) (r8 : Reg8) (r16 : Reg16),
    let base : Word := match b with
      | .bxSi => s.reg16 .bx + s.reg16 .si
      | .bxDi => s.reg16 .bx + s.reg16 .di
      | .bpSi => s.reg16 .bp + s.reg16 .si
      | .bpDi => s.reg16 .bp + s.reg16 .di
      | .si => s.reg16 .si
      | .di => s.reg16 .di
      | .bp => s.reg16 .bp
      | .bx => s.reg16 .bx
    let seg : Word := if b = .bpSi ∨ b = .bpDi ∨ b = .bp then s.ss else s.ds
    s.operandAddress (.direct off) = s.phys s.ds off ∧
    s.operandAddress (.base b) = s.phys seg base ∧
    (d8.toNat < 0x80 → s.operandAddress (.disp8 b d8) = s.phys seg (base + BitVec.ofNat 16 d8.toNat)) ∧
    (0x80 ≤ d8.toNat → s.operandAddress (.disp8 b d8) = s.phys seg (base - BitVec.ofNat 16 (256 - d8.toNat))) ∧
    s.operandAddress (.disp16 b d) = s.phys seg (base + d) ∧
    s.readRm8 (.mem m) = s.byteAt (s.operandAddress m) ∧
    s.readRm16 (.mem m) = s.wordAt (s.operandAddress m) ∧
    s.readRm8 (.reg r8) = s.reg8 r8 ∧
    s.readRm16 (.reg r16) = s.reg16 r16 ∧
    s.writeRm8 (.mem m) u = s.setByte (s.operandAddress m) u ∧
    s.writeRm16 (.mem m) v = s.setWord (s.operandAddress m) v ∧
    s.writeRm8 (.reg r8) u = s.setReg8 r8 u ∧
    s.writeRm16 (.reg r16) v = s.setReg16 r16 v

/-- The flags image holds CF, ZF, SF, IDF, OF at bits 0, 6, 7, 9, 11 and zeros elsewhere, and reading it back
restores all five flags (10_state.md section 5; the layout is the spec's decision D3). -/
def Obligations.FlagsImageRoundTrip : Prop :=
  ∀ (f : Flags) (w : Word),
    Flags.ofImage f.image = f ∧
    f.image.getLsbD 0 = f.cf ∧ f.image.getLsbD 6 = f.zf ∧ f.image.getLsbD 7 = f.sf ∧
    f.image.getLsbD 9 = f.idf ∧ f.image.getLsbD 11 = f.of ∧ f.image &&& 0xF53E#16 = 0#16 ∧
    (Flags.ofImage w).image = w &&& 0x0AC1#16

/-- The state after reset, for every choice of the parameters: memory zero, general registers 0 except SP =
`SP_RESET`, segment registers and flags 0, `pc` = `ENTRY`, no event; and the values of the defaults. Apart from
memory these are the spec's decision D8 (notes/assumptions/2.md; 10_state.md section 8). -/
def Obligations.StateAfterReset : Prop :=
  (∀ c : Config,
    (∀ a, (State.resetWith c).byteAt a = 0#8) ∧
    (∀ r, (State.resetWith c).reg16 r = if r = .sp then c.spReset else 0#16) ∧
    (∀ g, (State.resetWith c).seg g = 0#16) ∧
    (State.resetWith c).flags = ⟨false, false, false, false, false⟩ ∧
    (State.resetWith c).ip = c.entry ∧ (State.resetWith c).events = [] ∧ (State.resetWith c).cfg = c) ∧
  State.reset.ip = 0x0100#16 ∧ State.reset.reg16 .sp = 0xFFFE#16

/-! ### MOV -/

/-- The six byte forms of `MOV` have the spec's encodings and complete with the source's value in the destination,
no flag changed, `pc` at `pc_next` and nothing else changed (40_mov.md R151, R153, R155, R157, R159, and the form
C6 /0). The address of a memory destination is computed from the state before the step. -/
def Obligations.MovCopiesByte : Prop :=
  ∀ (s : State) (rm : RM8) (r : Reg8) (imm : Byte) (off : Word),
    CopiesByte s (.movRm8R8 rm r) (modRMBytes8 0x88#8 r.index rm []) rm (s.reg8 r) ∧
    CopiesByte s (.movR8Rm8 r rm) (modRMBytes8 0x8A#8 r.index rm []) (.reg r) (s.readRm8 rm) ∧
    CopiesByte s (.movAlOff off) [0xA0#8, lo8 off, hi8 off] (.reg .al) (s.byteAt (s.phys s.ds off)) ∧
    CopiesByte s (.movOffAl off) [0xA2#8, lo8 off, hi8 off] (.mem (.direct off)) (s.reg8 .al) ∧
    CopiesByte s (.movR8Imm8 r imm) [opcodePlus 0xB0#8 r.index, imm] (.reg r) imm ∧
    CopiesByte s (.movRm8Imm8 rm imm) (modRMBytes8 0xC6#8 0#3 rm [imm]) rm imm

/-- The six word forms of `MOV` have the spec's encodings and complete with the source's value in the destination,
no flag changed, `pc` at `pc_next` and nothing else changed (40_mov.md R152, R154, R156, R158, R160, and the form
C7 /0). -/
def Obligations.MovCopiesWord : Prop :=
  ∀ (s : State) (rm : RM16) (r : Reg16) (imm off : Word),
    CopiesWord s (.movRm16R16 rm r) (modRMBytes16 0x89#8 r.index rm []) rm (s.reg16 r) ∧
    CopiesWord s (.movR16Rm16 r rm) (modRMBytes16 0x8B#8 r.index rm []) (.reg r) (s.readRm16 rm) ∧
    CopiesWord s (.movAxOff off) [0xA1#8, lo8 off, hi8 off] (.reg .ax) (s.wordAt (s.phys s.ds off)) ∧
    CopiesWord s (.movOffAx off) [0xA3#8, lo8 off, hi8 off] (.mem (.direct off)) (s.reg16 .ax) ∧
    CopiesWord s (.movR16Imm16 r imm) [opcodePlus 0xB8#8 r.index, lo8 imm, hi8 imm] (.reg r) imm ∧
    CopiesWord s (.movRm16Imm16 rm imm) (modRMBytes16 0xC7#8 0#3 rm [lo8 imm, hi8 imm]) rm imm

/-! ### ADD and SUB -/

/-- The four byte forms of `ADD` have the spec's encodings and complete with the wrapped sum in the destination, CF
the carry out, ZF, SF of the result, OF exactly when the signed sum is out of range, IDF kept, `pc` at `pc_next`,
nothing else changed (41_add_sub_mul_div.md R183, R185, R187, and the form 80 /0). -/
def Obligations.AddByteForms : Prop :=
  ∀ (s : State) (rm : RM8) (r : Reg8) (imm : Byte),
    AddsByte s (.addRm8R8 rm r) (modRMBytes8 0x00#8 r.index rm []) rm (s.reg8 r) ∧
    AddsByte s (.addR8Rm8 r rm) (modRMBytes8 0x02#8 r.index rm []) (.reg r) (s.readRm8 rm) ∧
    AddsByte s (.addAlImm8 imm) [0x04#8, imm] (.reg .al) imm ∧
    AddsByte s (.addRm8Imm8 rm imm) (modRMBytes8 0x80#8 0#3 rm [imm]) rm imm

/-- The five word forms of `ADD`, in the same way, the immediate byte of opcode 83 sign-extended
(41_add_sub_mul_div.md R184, R186, R188, and the forms 81 /0 and 83 /0). -/
def Obligations.AddWordForms : Prop :=
  ∀ (s : State) (rm : RM16) (r : Reg16) (imm : Word) (imm8 : Byte),
    AddsWord s (.addRm16R16 rm r) (modRMBytes16 0x01#8 r.index rm []) rm (s.reg16 r) ∧
    AddsWord s (.addR16Rm16 r rm) (modRMBytes16 0x03#8 r.index rm []) (.reg r) (s.readRm16 rm) ∧
    AddsWord s (.addAxImm16 imm) [0x05#8, lo8 imm, hi8 imm] (.reg .ax) imm ∧
    AddsWord s (.addRm16Imm16 rm imm) (modRMBytes16 0x81#8 0#3 rm [lo8 imm, hi8 imm]) rm imm ∧
    AddsWord s (.addRm16Imm8 rm imm8) (modRMBytes16 0x83#8 0#3 rm [imm8]) rm (BitVec.ofInt 16 imm8.toInt)

/-- The four byte forms of `SUB` have the spec's encodings and complete with the wrapped difference in the
destination, CF the borrow, ZF, SF of the result, OF exactly when the signed difference is out of range, IDF kept,
`pc` at `pc_next`, nothing else changed (41_add_sub_mul_div.md R192, R194, R196, and the form 80 /5). -/
def Obligations.SubByteForms : Prop :=
  ∀ (s : State) (rm : RM8) (r : Reg8) (imm : Byte),
    SubtractsByte s (.subRm8R8 rm r) (modRMBytes8 0x28#8 r.index rm []) rm (s.reg8 r) ∧
    SubtractsByte s (.subR8Rm8 r rm) (modRMBytes8 0x2A#8 r.index rm []) (.reg r) (s.readRm8 rm) ∧
    SubtractsByte s (.subAlImm8 imm) [0x2C#8, imm] (.reg .al) imm ∧
    SubtractsByte s (.subRm8Imm8 rm imm) (modRMBytes8 0x80#8 5#3 rm [imm]) rm imm

/-- The five word forms of `SUB`, in the same way, the immediate byte of opcode 83 sign-extended
(41_add_sub_mul_div.md R193, R195, R197, and the forms 81 /5 and 83 /5). -/
def Obligations.SubWordForms : Prop :=
  ∀ (s : State) (rm : RM16) (r : Reg16) (imm : Word) (imm8 : Byte),
    SubtractsWord s (.subRm16R16 rm r) (modRMBytes16 0x29#8 r.index rm []) rm (s.reg16 r) ∧
    SubtractsWord s (.subR16Rm16 r rm) (modRMBytes16 0x2B#8 r.index rm []) (.reg r) (s.readRm16 rm) ∧
    SubtractsWord s (.subAxImm16 imm) [0x2D#8, lo8 imm, hi8 imm] (.reg .ax) imm ∧
    SubtractsWord s (.subRm16Imm16 rm imm) (modRMBytes16 0x81#8 5#3 rm [lo8 imm, hi8 imm]) rm imm ∧
    SubtractsWord s (.subRm16Imm8 rm imm8) (modRMBytes16 0x83#8 5#3 rm [imm8]) rm (BitVec.ofInt 16 imm8.toInt)

/-- Redundant encodings mean the same (30_encoding.md section 5, which the spec marks as derived). The two direction
bits of a register-to-register `MOV`, `ADD` or `SUB` do exactly the same. An accumulator form and its group forms, a
direct-offset `MOV` and its ModRM form, the two encodings of `MOV` of an immediate to a register, of `INC` and `DEC`
of a register, and the group form with a byte immediate beside the one with the word it extends to, do the same but
for their length, that is but for `pc`. So do, in every form with an `r/m` operand, displacement 0 with `mod` 01 and
no displacement with `mod` 00, except for BP, and a displacement byte beside the word it extends to. -/
def Obligations.RedundantEncodingsMeanTheSame : Prop :=
  ∀ (s : State) (a b : Reg16) (x y : Reg8) (rm : RM16) (base : Base) (imm off : Word) (imm8 : Byte),
    exec (.movRm16R16 (.reg a) b) s = exec (.movR16Rm16 a (.reg b)) s ∧
    exec (.movRm8R8 (.reg x) y) s = exec (.movR8Rm8 x (.reg y)) s ∧
    exec (.addRm16R16 (.reg a) b) s = exec (.addR16Rm16 a (.reg b)) s ∧
    exec (.addRm8R8 (.reg x) y) s = exec (.addR8Rm8 x (.reg y)) s ∧
    exec (.subRm16R16 (.reg a) b) s = exec (.subR16Rm16 a (.reg b)) s ∧
    exec (.subRm8R8 (.reg x) y) s = exec (.subR8Rm8 x (.reg y)) s ∧
    SameButForPc s (.addAlImm8 imm8) (.addRm8Imm8 (.reg .al) imm8) ∧
    SameButForPc s (.addAxImm16 imm) (.addRm16Imm16 (.reg .ax) imm) ∧
    SameButForPc s (.addAxImm16 (sext16 imm8)) (.addRm16Imm8 (.reg .ax) imm8) ∧
    SameButForPc s (.subAlImm8 imm8) (.subRm8Imm8 (.reg .al) imm8) ∧
    SameButForPc s (.subAxImm16 imm) (.subRm16Imm16 (.reg .ax) imm) ∧
    SameButForPc s (.subAxImm16 (sext16 imm8)) (.subRm16Imm8 (.reg .ax) imm8) ∧
    SameButForPc s (.addRm16Imm16 rm (sext16 imm8)) (.addRm16Imm8 rm imm8) ∧
    SameButForPc s (.subRm16Imm16 rm (sext16 imm8)) (.subRm16Imm8 rm imm8) ∧
    SameButForPc s (.movAlOff off) (.movR8Rm8 .al (.mem (.direct off))) ∧
    SameButForPc s (.movAxOff off) (.movR16Rm16 .ax (.mem (.direct off))) ∧
    SameButForPc s (.movOffAl off) (.movRm8R8 (.mem (.direct off)) .al) ∧
    SameButForPc s (.movOffAx off) (.movRm16R16 (.mem (.direct off)) .ax) ∧
    SameButForPc s (.movR8Imm8 x imm8) (.movRm8Imm8 (.reg x) imm8) ∧
    SameButForPc s (.movR16Imm16 a imm) (.movRm16Imm16 (.reg a) imm) ∧
    SameButForPc s (.incR16 a) (.incRm16 (.reg a)) ∧
    SameButForPc s (.decR16 a) (.decRm16 (.reg a)) ∧
    (base ≠ .bp → SameOperand s (.disp8 base 0#8) (.base base)) ∧
    SameOperand s (.disp8 base imm8) (.disp16 base (sext16 imm8))

/-! ### MUL, DIV, IDIV -/

/-- `MUL r/m8` completes with the exact product of AL and the operand in AX; CF and OF say that AH is not zero;
IDF is kept, ZF and SF are free values of which nothing is said; `pc` at `pc_next`, nothing else changed
(41_add_sub_mul_div.md section 4; notes/assumptions/3.md). -/
def Obligations.MulByteIsTheExactProduct : Prop :=
  ∀ (s : State) (rm : RM8), encode s.cfg (.mulRm8 rm) = modRMBytes8 0xF6#8 4#3 rm [] ∧
  ∃ t, exec (.mulRm8 rm) s = .next t ∧
    (t.reg16 .ax).toNat = (s.reg8 .al).toNat * (s.readRm8 rm).toNat ∧
    t.flags.cf = decide (t.reg8 .ah ≠ 0#8) ∧ t.flags.of = decide (t.reg8 .ah ≠ 0#8) ∧
    t.flags.idf = s.flags.idf ∧ t.ip = s.pcAfter (2 + rm.dispLen) ∧ Frame s t [.ax] []

/-- `MUL r/m16` completes with the exact product of AX and the operand in DX:AX; CF and OF say that DX is not zero;
IDF is kept, ZF and SF are free values of which nothing is said; `pc` at `pc_next`, nothing else changed
(41_add_sub_mul_div.md section 4; notes/assumptions/3.md). -/
def Obligations.MulWordIsTheExactProduct : Prop :=
  ∀ (s : State) (rm : RM16), encode s.cfg (.mulRm16 rm) = modRMBytes16 0xF7#8 4#3 rm [] ∧
  ∃ t, exec (.mulRm16 rm) s = .next t ∧
    65536 * (t.reg16 .dx).toNat + (t.reg16 .ax).toNat = (s.reg16 .ax).toNat * (s.readRm16 rm).toNat ∧
    t.flags.cf = decide (t.reg16 .dx ≠ 0#16) ∧ t.flags.of = decide (t.reg16 .dx ≠ 0#16) ∧
    t.flags.idf = s.flags.idf ∧ t.ip = s.pcAfter (2 + rm.dispLen) ∧ Frame s t [.ax, .dx] []

/-- `DIV r/m8` is `DivideError` exactly for a zero divisor or a quotient above 0xFF, and otherwise completes with
the floor quotient in AL and the remainder in AH; the four arithmetic flags are free values of which nothing is said
(41_add_sub_mul_div.md section 5; `DivideError` is the spec's decision D15). -/
def Obligations.DivByteQuotientAndRemainder : Prop :=
  ∀ (s : State) (rm : RM8),
    let n := (s.reg16 .ax).toNat
    let d := (s.readRm8 rm).toNat
    let bytes := modRMBytes8 0xF6#8 6#3 rm []
    encode s.cfg (.divRm8 rm) = bytes ∧
    if d = 0 ∨ 0xFF < n / d then exec (.divRm8 rm) s = .fault (.divideError 0xF6#8 s.ip)
    else Divides s (.divRm8 rm) bytes (fun t r => (t.reg8 r).toNat) .al .ah (n / d) (n % d) [.ax]

/-- `DIV r/m16` divides DX:AX: `DivideError` exactly for a zero divisor or a quotient above 0xFFFF, otherwise the
floor quotient in AX and the remainder in DX (41_add_sub_mul_div.md section 5; decision D15). -/
def Obligations.DivWordQuotientAndRemainder : Prop :=
  ∀ (s : State) (rm : RM16),
    let n := 65536 * (s.reg16 .dx).toNat + (s.reg16 .ax).toNat
    let d := (s.readRm16 rm).toNat
    let bytes := modRMBytes16 0xF7#8 6#3 rm []
    encode s.cfg (.divRm16 rm) = bytes ∧
    if d = 0 ∨ 0xFFFF < n / d then exec (.divRm16 rm) s = .fault (.divideError 0xF7#8 s.ip)
    else Divides s (.divRm16 rm) bytes (fun t r => (t.reg16 r).toNat) .ax .dx (n / d) (n % d) [.ax, .dx]

/-- `IDIV r/m8` is `DivideError` exactly for a zero divisor or a truncated quotient outside -127 .. 127, and
otherwise completes with that quotient in AL and the remainder, of the dividend's sign, in AH
(41_add_sub_mul_div.md section 5; the range and the error are the spec's decision D15). -/
def Obligations.IdivByteQuotientAndRemainder : Prop :=
  ∀ (s : State) (rm : RM8),
    let n := (s.reg16 .ax).toInt
    let d := (s.readRm8 rm).toInt
    let bytes := modRMBytes8 0xF6#8 7#3 rm []
    encode s.cfg (.idivRm8 rm) = bytes ∧
    if d = 0 ∨ 127 < n.tdiv d ∨ n.tdiv d < -127 then exec (.idivRm8 rm) s = .fault (.divideError 0xF6#8 s.ip)
    else Divides s (.idivRm8 rm) bytes (fun t r => (t.reg8 r).toInt) .al .ah (n.tdiv d) (n.tmod d) [.ax]

/-- `IDIV r/m16` divides the signed 32-bit DX:AX: `DivideError` exactly for a zero divisor or a truncated quotient
outside -32767 .. 32767, otherwise the quotient in AX and the remainder in DX (41_add_sub_mul_div.md section 5;
decision D15). -/
def Obligations.IdivWordQuotientAndRemainder : Prop :=
  ∀ (s : State) (rm : RM16),
    let n := (s.reg16 .dx ++ s.reg16 .ax).toInt
    let d := (s.readRm16 rm).toInt
    let bytes := modRMBytes16 0xF7#8 7#3 rm []
    encode s.cfg (.idivRm16 rm) = bytes ∧
    if d = 0 ∨ 32767 < n.tdiv d ∨ n.tdiv d < -32767 then
      exec (.idivRm16 rm) s = .fault (.divideError 0xF7#8 s.ip)
    else Divides s (.idivRm16 rm) bytes (fun t r => (t.reg16 r).toInt) .ax .dx (n.tdiv d) (n.tmod d) [.ax, .dx]

/-! ### INC and DEC -/

/-- The three forms of `INC` have the spec's encodings and complete with the destination one higher modulo 2^n, ZF and SF of the result, OF
exactly when the result is 2^(n-1), CF and IDF kept, nothing else changed
(42_inc_dec.md R231, and the forms FE /0 and FF /0). -/
def Obligations.IncForms : Prop :=
  ∀ (s : State) (r : Reg16) (rm8 : RM8) (rm16 : RM16),
    StepsWord s (.incR16 r) [opcodePlus 0x40#8 r.index] (.reg r) (s.reg16 r + 1#16) 0x8000#16 ∧
    StepsByte s (.incRm8 rm8) (modRMBytes8 0xFE#8 0#3 rm8 []) rm8 (s.readRm8 rm8 + 1#8) 0x80#8 ∧
    StepsWord s (.incRm16 rm16) (modRMBytes16 0xFF#8 0#3 rm16 []) rm16 (s.readRm16 rm16 + 1#16) 0x8000#16

/-- The three forms of `DEC` have the spec's encodings and complete with the destination one lower modulo 2^n, ZF and SF of the result, OF
exactly when the result is 2^(n-1) - 1, CF and IDF kept, nothing else changed
(42_inc_dec.md R232, and the forms FE /1 and FF /1). -/
def Obligations.DecForms : Prop :=
  ∀ (s : State) (r : Reg16) (rm8 : RM8) (rm16 : RM16),
    StepsWord s (.decR16 r) [opcodePlus 0x48#8 r.index] (.reg r) (s.reg16 r - 1#16) 0x7FFF#16 ∧
    StepsByte s (.decRm8 rm8) (modRMBytes8 0xFE#8 1#3 rm8 []) rm8 (s.readRm8 rm8 - 1#8) 0x7F#8 ∧
    StepsWord s (.decRm16 rm16) (modRMBytes16 0xFF#8 1#3 rm16 []) rm16 (s.readRm16 rm16 - 1#16) 0x7FFF#16

/-! ### JMP, conditional jumps, LOOP -/

/-- `JMP rel8` and `JMP rel16` complete at `pc_next` plus the displacement, the byte sign-extended, and change
nothing else (43_jumps_loop.md R251, R252). -/
def Obligations.JmpTargets : Prop :=
  ∀ (s : State) (rel : Byte) (rel16 : Word),
    Transfers s (.jmpRel8 rel) [0xEB#8, rel] true (BitVec.ofInt 16 rel.toInt) ∧
    Transfers s (.jmpRel16 rel16) [0xE9#8, lo8 rel16, hi8 rel16] true rel16

/-- The conditional jumps of opcodes 70 to 77 complete at the target exactly on their condition of CF, ZF, OF, at
`pc_next` otherwise, and change nothing else (43_jumps_loop.md R254 to R261). -/
def Obligations.JccOnOverflowCarryZero : Prop :=
  ∀ (s : State) (rel : Byte),
    let d : Word := BitVec.ofInt 16 rel.toInt
    let f := s.flags
    Transfers s (.jo rel) [0x70#8, rel] f.of d ∧
    Transfers s (.jno rel) [0x71#8, rel] (!f.of) d ∧
    Transfers s (.jc rel) [0x72#8, rel] f.cf d ∧
    Transfers s (.jnc rel) [0x73#8, rel] (!f.cf) d ∧
    Transfers s (.jz rel) [0x74#8, rel] f.zf d ∧
    Transfers s (.jnz rel) [0x75#8, rel] (!f.zf) d ∧
    Transfers s (.jna rel) [0x76#8, rel] (f.cf || f.zf) d ∧
    Transfers s (.ja rel) [0x77#8, rel] (!f.cf && !f.zf) d

/-- The conditional jumps of opcodes 78, 79 and 7C to 7F complete at the target exactly on their condition of SF,
OF, ZF, at `pc_next` otherwise, and change nothing else (43_jumps_loop.md R262 to R267). -/
def Obligations.JccOnSign : Prop :=
  ∀ (s : State) (rel : Byte),
    let d : Word := BitVec.ofInt 16 rel.toInt
    let f := s.flags
    Transfers s (.js rel) [0x78#8, rel] f.sf d ∧
    Transfers s (.jns rel) [0x79#8, rel] (!f.sf) d ∧
    Transfers s (.jl rel) [0x7C#8, rel] (decide (f.sf ≠ f.of)) d ∧
    Transfers s (.jge rel) [0x7D#8, rel] (decide (f.sf = f.of)) d ∧
    Transfers s (.jle rel) [0x7E#8, rel] (decide (f.zf = true ∨ f.sf ≠ f.of)) d ∧
    Transfers s (.jg rel) [0x7F#8, rel] (decide (f.zf = false ∧ f.sf = f.of)) d

/-- What the conditional jumps decide after a subtraction: when the flags are those `SUB` writes for `a` and `b`,
at either width, the jumps compare `a` with `b`, unsigned or signed (43_jumps_loop.md section 3, column "meaning
after `SUB a, b`"). -/
def Obligations.JccAfterSubComparesOperands : Prop :=
  ∀ (n : Nat) (s : State) (a b : BitVec n) (rel : Byte), (n = 8 ∨ n = 16) → DifferenceFlags s s a b →
    let d : Word := BitVec.ofInt 16 rel.toInt
    Transfers s (.jc rel) [0x72#8, rel] (decide (a.toNat < b.toNat)) d ∧
    Transfers s (.jnc rel) [0x73#8, rel] (decide (b.toNat ≤ a.toNat)) d ∧
    Transfers s (.jz rel) [0x74#8, rel] (decide (a = b)) d ∧
    Transfers s (.jnz rel) [0x75#8, rel] (decide (a ≠ b)) d ∧
    Transfers s (.jna rel) [0x76#8, rel] (decide (a.toNat ≤ b.toNat)) d ∧
    Transfers s (.ja rel) [0x77#8, rel] (decide (b.toNat < a.toNat)) d ∧
    Transfers s (.jl rel) [0x7C#8, rel] (decide (a.toInt < b.toInt)) d ∧
    Transfers s (.jge rel) [0x7D#8, rel] (decide (b.toInt ≤ a.toInt)) d ∧
    Transfers s (.jle rel) [0x7E#8, rel] (decide (a.toInt ≤ b.toInt)) d ∧
    Transfers s (.jg rel) [0x7F#8, rel] (decide (b.toInt < a.toInt)) d

/-- `LOOP` completes with CX one lower modulo 2^16, at the target exactly when CX is then not 0, writes no flag and
changes nothing else (43_jumps_loop.md R268). -/
def Obligations.LoopCountsCxDown : Prop :=
  ∀ (s : State) (rel : Byte), encode s.cfg (.loop rel) = [0xE2#8, rel] ∧
  ∃ t, exec (.loop rel) s = .next t ∧
    t.reg16 .cx = s.reg16 .cx - 1#16 ∧
    t.ip = (if s.reg16 .cx = 1#16 then s.pcAfter 2 else s.pcAfter 2 + BitVec.ofInt 16 rel.toInt) ∧
    t.flags = s.flags ∧ Frame s t [.cx] []

/-! ### The stack -/

/-- `PUSH` of any register but SP completes with SP two lower and the register's value in the word at
`Phys(SS, SP)`; no flag, nothing else changed (44_stack_call_ret.md sections 1 and 2). -/
def Obligations.PushStoresBelowTheTop : Prop :=
  ∀ (s : State) (r : Reg16), r ≠ .sp → encode s.cfg (.pushR16 r) = [opcodePlus 0x50#8 r.index] ∧
  ∃ t, exec (.pushR16 r) s = .next t ∧
    t.reg16 .sp = s.reg16 .sp - 2#16 ∧ t.wordAt (s.phys s.ss (s.reg16 .sp - 2#16)) = s.reg16 r ∧
    t.flags = s.flags ∧ t.ip = s.pcAfter 1 ∧
    Frame s t [.sp] (wordSpan (s.phys s.ss (s.reg16 .sp - 2#16)))

/-- `PUSH SP` is the fatal `RefusedForm` in every state (44_stack_call_ret.md section 2; the spec's decision D18). -/
def Obligations.PushSpIsRefused : Prop :=
  ∀ s : State, encode s.cfg (.pushR16 .sp) = [0x54#8] ∧ exec (.pushR16 .sp) s = .fault (.refusedForm 0x54#8 s.ip)

/-- `POP` completes with the word at `Phys(SS, SP)` in the register and SP two higher, except that `POP SP` leaves
the popped word in SP; memory, flags and all else unchanged (44_stack_call_ret.md sections 1 and 2; the case of SP
the spec marks as derived). -/
def Obligations.PopLoadsTheTop : Prop :=
  ∀ (s : State) (r : Reg16), encode s.cfg (.popR16 r) = [opcodePlus 0x58#8 r.index] ∧
  ∃ t, exec (.popR16 r) s = .next t ∧
    t.reg16 r = s.wordAt (s.phys s.ss (s.reg16 .sp)) ∧
    (r ≠ .sp → t.reg16 .sp = s.reg16 .sp + 2#16) ∧
    t.flags = s.flags ∧ t.ip = s.pcAfter 1 ∧ Frame s t [.sp, r] []

/-- `CALL` completes with `pc_next` pushed and `pc` at `pc_next` plus the displacement; CS, flags and all else
unchanged (44_stack_call_ret.md section 3; that the target is relative is the spec's decision D17). -/
def Obligations.CallPushesTheReturnOffset : Prop :=
  ∀ (s : State) (rel : Word), encode s.cfg (.callRel16 rel) = [0xE8#8, lo8 rel, hi8 rel] ∧
  ∃ t, exec (.callRel16 rel) s = .next t ∧
    t.reg16 .sp = s.reg16 .sp - 2#16 ∧ t.wordAt (s.phys s.ss (s.reg16 .sp - 2#16)) = s.pcAfter 3 ∧
    t.ip = s.pcAfter 3 + rel ∧ t.flags = s.flags ∧
    Frame s t [.sp] (wordSpan (s.phys s.ss (s.reg16 .sp - 2#16)))

/-- `RET` completes with `pc` the word at `Phys(SS, SP)` and SP two higher; CS, flags, memory and all else
unchanged (44_stack_call_ret.md R295). -/
def Obligations.RetPopsIp : Prop :=
  ∀ s : State, encode s.cfg .ret = [0xC3#8] ∧ ∃ t, exec .ret s = .next t ∧
    t.ip = s.wordAt (s.phys s.ss (s.reg16 .sp)) ∧ t.reg16 .sp = s.reg16 .sp + 2#16 ∧
    t.flags = s.flags ∧ Frame s t [.sp] []

/-- `PUSH a` then `POP b`, neither of them SP, moves the value of `a` to `b`, restores SP and changes no flag and
no other register (44_stack_call_ret.md sections 1 and 2; 95_test_vectors.md, laws). -/
def Obligations.PushThenPopMovesTheWord : Prop :=
  ∀ (s : State) (a b : Reg16), a ≠ .sp → b ≠ .sp →
    ∃ t u, exec (.pushR16 a) s = .next t ∧ exec (.popR16 b) t = .next u ∧
      u.reg16 b = s.reg16 a ∧ (∀ r, r ≠ b → u.reg16 r = s.reg16 r) ∧ u.flags = s.flags

/-- `CALL` then `RET` resumes at the byte after the `CALL` with every register as before
(44_stack_call_ret.md section 3; 95_test_vectors.md, laws; decision D17 fixes only the callee's address). -/
def Obligations.CallThenRetResumes : Prop :=
  ∀ (s : State) (rel : Word),
    ∃ t u, exec (.callRel16 rel) s = .next t ∧ exec .ret t = .next u ∧
      u.ip = s.pcAfter 3 ∧ u.cs = s.cs ∧ (∀ r, u.reg16 r = s.reg16 r) ∧ u.flags = s.flags

/-! ### INT, IRET, the marker -/

/-- `INT 0x10` and `INT 0x21` complete by taking the interrupt: the flags image, CS and the return offset pushed in
that order, SP six lower, IDF set and the other flags kept, CS:IP the handler's entry point, the vector's event
yielded; every other register and every byte outside the six of the frame as before (45_int_iret.md
on `INT n`, the dispatch and the event; the return offset, the entry points and the event are the spec's decisions D11, D12, D14;
notes/assumptions/4.md, 5.md, 7.md). -/
def Obligations.IntEntersTheHandler : Prop :=
  ∀ (s : State) (n : Byte), n = 0x10#8 ∨ n = 0x21#8 → encode s.cfg (.int n) = [0xCD#8, n] ∧
  ∃ t, exec (.int n) s = .next t ∧
    t.wordAt (s.phys s.ss (s.reg16 .sp - 2#16)) = s.flags.image ∧
    t.wordAt (s.phys s.ss (s.reg16 .sp - 4#16)) = s.cs ∧
    t.wordAt (s.phys s.ss (s.reg16 .sp - 6#16)) = s.pcAfter 2 ∧
    t.reg16 .sp = s.reg16 .sp - 6#16 ∧ (∀ r, r ≠ .sp → t.reg16 r = s.reg16 r) ∧
    t.flags = { s.flags with idf := true } ∧
    t.cs = s.cfg.biosSeg ∧ t.ip = (if n = 0x10#8 then s.cfg.int10Off else s.cfg.int21Off) ∧
    t.ds = s.ds ∧ t.es = s.es ∧ t.ss = s.ss ∧ t.cfg = s.cfg ∧
    t.events = s.events ++ (s.eventOf n).toList ∧
    ∀ a, a ∉ interruptFrame s → t.byteAt a = s.byteAt a

/-- A vector is known by its number alone: any but 0x10 and 0x21 is the fatal `UnknownInterruptVector` whatever the
registers hold, and a known one is never fatal (60_exceptions.md section 1). -/
def Obligations.UnknownVectorIsFatal : Prop :=
  ∀ (s : State) (n : Byte),
    if n = 0x10#8 ∨ n = 0x21#8 then ∃ t, exec (.int n) s = .next t
    else exec (.int n) s = .fault (.unknownInterruptVector 0xCD#8 s.ip n)

/-- With the default `EVENT_OF`, `INT 0x21` with AH = 0x02 yields `Print(DL)` and every other `INT` yields no event
(45_int_iret.md section on R322; the default is the spec's decision D14, notes/assumptions/5.md). -/
def Obligations.DefaultEventPrintsDl : Prop :=
  ∀ (s t : State) (n : Byte), s.cfg.eventChoice = Config.default.eventChoice → exec (.int n) s = .next t →
    t.events = if n = 0x21#8 ∧ s.reg8 .ah = 0x02#8 then s.events ++ [.print (s.reg8 .dl)] else s.events

/-- `IRET` completes by popping `pc`, CS and the flags image in that order: CF, ZF, SF, OF, IDF are bits 0, 6, 7,
11, 9 of the image, SP is six higher, all else is unchanged (45_int_iret.md on `IRET`; the layout of the image is
the spec's decision D3). -/
def Obligations.IretPopsIpCsFlags : Prop :=
  ∀ s : State, encode s.cfg .iret = [0xCF#8] ∧ ∃ t, exec .iret s = .next t ∧
    t.ip = s.wordAt (s.phys s.ss (s.reg16 .sp)) ∧
    t.cs = s.wordAt (s.phys s.ss (s.reg16 .sp + 2#16)) ∧
    (let image := s.wordAt (s.phys s.ss (s.reg16 .sp + 4#16))
     t.flags.cf = image.getLsbD 0 ∧ t.flags.zf = image.getLsbD 6 ∧ t.flags.sf = image.getLsbD 7 ∧
     t.flags.of = image.getLsbD 11 ∧ t.flags.idf = image.getLsbD 9) ∧
    t.reg16 .sp = s.reg16 .sp + 6#16 ∧ (∀ r, r ≠ .sp → t.reg16 r = s.reg16 r) ∧
    t.ds = s.ds ∧ t.es = s.es ∧ t.ss = s.ss ∧ t.cfg = s.cfg ∧ t.events = s.events ∧
    ∀ a, t.byteAt a = s.byteAt a

/-- The marker completes and only moves `pc` past itself (45_int_iret.md section on R324; that the marker has no
effect is the spec's decision D13). -/
def Obligations.MarkerOnlyAdvances : Prop :=
  ∀ s : State, encode s.cfg .nop = [s.cfg.markerOpcode] ∧ ∃ t, exec .nop s = .next t ∧ t.ip = s.pcAfter 1 ∧ t.flags = s.flags ∧ Frame s t [] []

/-- `INT` of a known vector followed by `IRET` restores CS, the five flags and every register, and resumes at the
instruction after the `INT` (60_exceptions.md section 5, the document's round trip; the return offset is the spec's
decision D11). -/
def Obligations.IntThenIretRestores : Prop :=
  ∀ (s : State) (n : Byte), n = 0x10#8 ∨ n = 0x21#8 →
    ∃ t u, exec (.int n) s = .next t ∧ exec .iret t = .next u ∧
      u.ip = s.pcAfter 2 ∧ u.cs = s.cs ∧ u.flags = s.flags ∧ (∀ r, u.reg16 r = s.reg16 r)

/-- With a handler stub in place (the marker, then the byte of `IRET`) that the pushes do not overwrite, a step at
an `INT` of that vector is followed by two steps after which `pc` is past the `INT` and the net effect is at most
one event and the six stack bytes: everything else is as before (45_int_iret.md section on R325; decisions D11,
D13; notes/assumptions/9.md). -/
def Obligations.StubbedIntCostsThreeSteps : Prop :=
  ∀ (s : State) (n : Byte) (off : Word), s.decodeNext = .ok (.int n) → s.handlerOffset n = some off →
    recognisedFirstByte s.cfg.markerOpcode = false →
    s.byteAt (s.phys s.cfg.biosSeg off) = s.cfg.markerOpcode →
    s.byteAt (s.phys s.cfg.biosSeg (off + 1#16)) = 0xCF#8 →
    s.phys s.cfg.biosSeg off ∉ interruptFrame s → s.phys s.cfg.biosSeg (off + 1#16) ∉ interruptFrame s →
    ∃ t u v, step s = .next t ∧ step t = .next u ∧ step u = .next v ∧
      v.ip = s.pcAfter 2 ∧ v.flags = s.flags ∧ (∀ r, v.reg16 r = s.reg16 r) ∧ (∀ g, v.seg g = s.seg g) ∧
      v.cfg = s.cfg ∧ v.events = s.events ++ (s.eventOf n).toList ∧
      ∀ a, a ∉ interruptFrame s → v.byteAt a = s.byteAt a

/-! ### The host -/

/-- Load puts byte `i` of the program at `(origin + i) mod 65536` and leaves every other byte and all else as it
was; a program longer than 65536 bytes cannot be loaded (70_reset_and_hazards.md section 3). -/
def Obligations.LoadCopiesTheProgram : Prop :=
  ∀ (s : State) (origin : Word) (program : List Byte),
    if program.length ≤ 65536 then
      ∃ t, s.load origin program = some t ∧
        (∀ i, i < program.length → t.byteAt (origin + BitVec.ofNat 16 i) = program.getD i 0#8) ∧
        (∀ a, (∀ i, i < program.length → a ≠ origin + BitVec.ofNat 16 i) → t.byteAt a = s.byteAt a) ∧
        { t with mem := s.mem } = s
    else s.load origin program = none

/-- A run ends as completed only at `pc` = `STOP` with CS = 0, and as failed only in a state whose next step is
that fatal report; it is never refused (70_reset_and_hazards.md section 3; `STOP` is the spec's decision D19). -/
def Obligations.RunEndsAtStopOrAtAFatalStep : Prop :=
  ∀ (stop : Word) (budget : Nat) (s : State),
    match run stop budget s with
    | .completed t => t.ip = stop ∧ t.cs = 0#16
    | .failed f t => step t = .fault f ∧ ¬(t.ip = stop ∧ t.cs = 0#16)
    | .outOfBudget t => ¬(t.ip = stop ∧ t.cs = 0#16)
    | .refused _ _ => False
end

