-- ==== Sys2Proof/Laws/Decode.lean ====
section
/-! SUPPORT. The small lemmas of the decoder and the encoder: register and base indices, the fields of a ModRM
byte, the operand and the bytes of an `rm` operand in both directions (spec/30_encoding.md R103 to R109). -/

namespace Sys2Proof

/-! ### Indices -/

@[simp] theorem Reg16.ofIndex_index (r : Reg16) : Reg16.ofIndex r.index = r := by cases r <;> rfl

@[simp] theorem Reg8.ofIndex_index (r : Reg8) : Reg8.ofIndex r.index = r := by cases r <;> rfl

@[simp] theorem Base.ofIndex_index (b : Base) : Base.ofIndex b.index = b := by cases b <;> rfl

@[simp] theorem Reg16.index_ofIndex (i : BitVec 3) : (Reg16.ofIndex i).index = i := by
  revert i; decide

@[simp] theorem Reg8.index_ofIndex (i : BitVec 3) : (Reg8.ofIndex i).index = i := by
  revert i; decide

@[simp] theorem Base.index_ofIndex (i : BitVec 3) : (Base.ofIndex i).index = i := by
  revert i; decide

/-! ### Fields of the ModRM byte (30_encoding.md R103) -/

theorem modRMByte_mode (m : BitVec 2) (g r : BitVec 3) : (modRMByte m g r).extractLsb' 6 2 = m := by
  revert m g r; decide

theorem modRMByte_reg (m : BitVec 2) (g r : BitVec 3) : (modRMByte m g r).extractLsb' 3 3 = g := by
  revert m g r; decide

theorem modRMByte_rm (m : BitVec 2) (g r : BitVec 3) : (modRMByte m g r).extractLsb' 0 3 = r := by
  revert m g r; decide

theorem modRMByte_fields (b : Byte) :
    modRMByte (b.extractLsb' 6 2) (b.extractLsb' 3 3) (b.extractLsb' 0 3) = b := by
  revert b; decide

theorem opcodePlus_fields (op : Byte) (r : BitVec 3) (h : op.extractLsb' 0 3 = 0#3) :
    (opcodePlus op r).extractLsb' 3 5 = op.extractLsb' 3 5 ∧ (opcodePlus op r).extractLsb' 0 3 = r := by
  revert op r; decide

theorem opcodePlus_of_fields (op b : Byte) (h : b.extractLsb' 3 5 = op.extractLsb' 3 5)
    (h0 : op.extractLsb' 0 3 = 0#3) : opcodePlus op (b.extractLsb' 0 3) = b := by
  have e : ∀ x : Byte, x.toNat = 8 * (x.extractLsb' 3 5).toNat + (x.extractLsb' 0 3).toNat := by decide
  have hb := e b
  have ho := e op
  rw [h0] at ho
  rw [h] at hb
  apply BitVec.eq_of_toNat_eq
  have l3 := (b.extractLsb' 0 3).isLt
  have lb := b.isLt
  simp only [opcodePlus, BitVec.toNat_add, BitVec.toNat_setWidth]
  simp only [BitVec.toNat_ofNat] at ho
  omega

/-! ### Bytes of a list -/

@[simp] theorem bytesOf_cons_zero (b : Byte) (bs : List Byte) : bytesOf (b :: bs) 0 = b := rfl

@[simp] theorem bytesOf_cons_succ (b : Byte) (bs : List Byte) (k : Nat) :
    bytesOf (b :: bs) (k + 1) = bytesOf bs k := rfl

theorem bytesOf_append_right (as bs : List Byte) (k : Nat) : bytesOf (as ++ bs) (as.length + k) = bytesOf bs k := by
  simp [bytesOf, List.getD_eq_getElem?_getD, List.getElem?_append_right]

/-- The immediate word of a form with no ModRM byte. -/
theorem imm16At_plain (op : Byte) (v : Word) (tail : List Byte) :
    imm16At (bytesOf (op :: (wordBytes v ++ tail))) 1 = v := by
  simp [imm16At, wordBytes]

/-! ### The `rm` operand, from its bytes and back (30_encoding.md R105, R106) -/

theorem RM.dispBytes_length {ρ : Type} (rm : RM ρ) : rm.dispBytes.length = rm.dispLen := by
  rcases rm with r | (o | b | ⟨b, d⟩ | ⟨b, d⟩) <;> rfl

/-- The bytes of a ModRM operand decode to it. -/
theorem rmOperand_encoded {ρ : Type} (index : ρ → BitVec 3) (ofIndex : BitVec 3 → ρ)
    (hi : ∀ r, ofIndex (index r) = r) (op : Byte) (g : BitVec 3) (rm : RM ρ) (tail : List Byte)
    (hw : rm.wellFormed = true) :
    rmOperand ofIndex (bytesOf (op :: rm.modRM index g :: (rm.dispBytes ++ tail))) = rm := by
  rcases rm with r | (o | b | ⟨b, d⟩ | ⟨b, d⟩)
  · simp [rmOperand, RM.modRM, modRMByte_mode, modRMByte_rm, hi]
  · simp [rmOperand, RM.modRM, modRMByte_mode, modRMByte_rm, imm16At, RM.dispBytes, wordBytes]
  · have hb : b.index ≠ 6#3 := by cases b <;> first | decide | exact absurd hw (by simp [RM.wellFormed, MemOp.wellFormed])
    simp [rmOperand, RM.modRM, modRMByte_mode, modRMByte_rm, hb]
  · simp [rmOperand, RM.modRM, modRMByte_mode, modRMByte_rm, RM.dispBytes]
  · simp [rmOperand, RM.modRM, modRMByte_mode, modRMByte_rm, imm16At, RM.dispBytes, wordBytes]

theorem regField_encoded {ρ : Type} (index : ρ → BitVec 3) (op : Byte) (g : BitVec 3) (rm : RM ρ)
    (tail : List Byte) : regField (bytesOf (op :: rm.modRM index g :: tail)) = g := by
  rcases rm with r | (o | b | ⟨b, d⟩ | ⟨b, d⟩) <;> simp [regField, RM.modRM, modRMByte_reg]

theorem bytesOf_immAt {ρ : Type} (op m : Byte) (rm : RM ρ) (tail : List Byte) (k : Nat) :
    bytesOf (op :: m :: (rm.dispBytes ++ tail)) (immAt rm + k) = bytesOf tail k := by
  have h : immAt rm + k = (rm.dispBytes.length + k) + 1 + 1 := by
    rw [RM.dispBytes_length, immAt]; omega
  rw [h, bytesOf_cons_succ, bytesOf_cons_succ, bytesOf_append_right]

/-- The byte after the displacement. -/
theorem immAt_encoded {ρ : Type} (op m : Byte) (rm : RM ρ) (tail : List Byte) :
    bytesOf (op :: m :: (rm.dispBytes ++ tail)) (immAt rm) = bytesOf tail 0 :=
  bytesOf_immAt op m rm tail 0

/-- The word after the displacement. -/
theorem imm16At_encoded {ρ : Type} (op m : Byte) (rm : RM ρ) (v : Word) (tail : List Byte) :
    imm16At (bytesOf (op :: m :: (rm.dispBytes ++ (wordBytes v ++ tail)))) (immAt rm) = v := by
  rw [imm16At, immAt_encoded, bytesOf_immAt]
  simp [wordBytes]

/-- Every operand the decoder reads is well formed. -/
theorem rmOperand_wellFormed {ρ : Type} (ofIndex : BitVec 3 → ρ) (w : Nat → Byte) :
    (rmOperand ofIndex w).wellFormed = true := by
  simp only [rmOperand]
  split
  · split
    · rfl
    · rename_i h
      have : ∀ x : BitVec 3, x ≠ 6#3 → (Base.ofIndex x != .bp) = true := by decide
      exact this _ h
  · rfl
  · rfl
  · rfl

/-- An operand the decoder reads encodes to the ModRM byte it was read from. -/
theorem rmOperand_modRM {ρ : Type} (index : ρ → BitVec 3) (ofIndex : BitVec 3 → ρ)
    (hi : ∀ i, index (ofIndex i) = i) (w : Nat → Byte) :
    (rmOperand ofIndex w).modRM index (regField w) = w 1 := by
  have hf := modRMByte_fields (w 1)
  have hm : ∀ m : BitVec 2, m.toNat ≠ 0 → m.toNat ≠ 1 → m.toNat ≠ 2 → m = 3#2 := by decide
  simp only [rmOperand]
  split
  · rename_i h
    have h' : (w 1).extractLsb' 6 2 = 0#2 := BitVec.eq_of_toNat_eq h
    split
    · rename_i hr
      rw [h', hr] at hf
      exact hf
    · simp only [RM.modRM, regField, Base.index_ofIndex]
      rw [h'] at hf; exact hf
  · rename_i h
    have h' : (w 1).extractLsb' 6 2 = 1#2 := BitVec.eq_of_toNat_eq h
    simp only [RM.modRM, regField, Base.index_ofIndex]
    rw [h'] at hf; exact hf
  · rename_i h
    have h' : (w 1).extractLsb' 6 2 = 2#2 := BitVec.eq_of_toNat_eq h
    simp only [RM.modRM, regField, Base.index_ofIndex]
    rw [h'] at hf; exact hf
  · rename_i h0 h1 h2
    have h' := hm _ h0 h1 h2
    simp only [RM.modRM, regField, hi]
    rw [h'] at hf; exact hf

/-- An operand the decoder reads encodes to the displacement bytes it was read from. -/
theorem rmOperand_dispBytes {ρ : Type} (ofIndex : BitVec 3 → ρ) (w : Nat → Byte) :
    (rmOperand ofIndex w).dispBytes = (List.range (rmOperand ofIndex w).dispLen).map (fun k => w (2 + k)) := by
  simp only [rmOperand]
  split
  · split <;> simp [RM.dispBytes, RM.dispLen, wordBytes, imm16At, List.range_succ]
  · simp [RM.dispBytes, RM.dispLen, List.range_succ]
  · simp [RM.dispBytes, RM.dispLen, wordBytes, imm16At, List.range_succ]
  · simp [RM.dispBytes, RM.dispLen]

/-! ### Six bytes decide (30_encoding.md R100, R112) -/

theorem immAt_le {ρ : Type} (rm : RM ρ) : immAt rm ≤ 4 := by
  rcases rm with r | (o | b | ⟨b, d⟩ | ⟨b, d⟩) <;> simp [immAt, RM.dispLen]

theorem rmOperand_congr {ρ : Type} (ofIndex : BitVec 3 → ρ) {w v : Nat → Byte} (h : ∀ k, k < 6 → w k = v k) :
    rmOperand ofIndex w = rmOperand ofIndex v := by
  simp only [rmOperand, imm16At, h 1 (by omega), h 2 (by omega), h 3 (by omega)]

/-- The decoder looks at the first six bytes alone. -/
theorem decode_congr (c : Config) {w v : Nat → Byte} (h : ∀ k, k < 6 → w k = v k) : decode c w = decode c v := by
  have e8 : rm8 w = rm8 v := rmOperand_congr _ h
  have e16 : rm16 w = rm16 v := rmOperand_congr _ h
  have eg : regField w = regField v := by simp only [regField, h 1 (by omega)]
  have eg8 : reg8Field w = reg8Field v := by simp only [reg8Field, eg]
  have eg16 : reg16Field w = reg16Field v := by simp only [reg16Field, eg]
  have eo : opcodeReg w = opcodeReg v := by simp only [opcodeReg, h 0 (by omega)]
  have e1 : imm16At w 1 = imm16At v 1 := by simp only [imm16At, h 1 (by omega), h 2 (by omega)]
  have ei : ∀ {ρ : Type} (rm : RM ρ), w (immAt rm) = v (immAt rm) := fun rm =>
    h _ (by have := immAt_le rm; omega)
  have ej : ∀ {ρ : Type} (rm : RM ρ), imm16At w (immAt rm) = imm16At v (immAt rm) := fun rm => by
    have := immAt_le rm
    simp only [imm16At, h _ (show immAt rm < 6 by omega), h _ (show immAt rm + 1 < 6 by omega)]
  unfold decode withModRM badModRM
  simp only [e8, e16, eg, eg8, eg16, eo, e1, ei, ej, h 0 (by omega), h 1 (by omega)]

end Sys2Proof
end

