-- ==== Sys2Proof/Laws/State.lean ====
section
/-! SUPPORT. One lemma for each field under each update of the state, so that no proof unfolds a record update;
and the same for the accessors of registers, segments, memory and addresses. -/

namespace Sys2Proof.Machine

/-! ### `setByte` -/

@[simp] theorem State.setByte_regs (s : State) (a : Word) (v : Byte) : (s.setByte a v).regs = s.regs := rfl
@[simp] theorem State.setByte_cs (s : State) (a : Word) (v : Byte) : (s.setByte a v).cs = s.cs := rfl
@[simp] theorem State.setByte_ds (s : State) (a : Word) (v : Byte) : (s.setByte a v).ds = s.ds := rfl
@[simp] theorem State.setByte_es (s : State) (a : Word) (v : Byte) : (s.setByte a v).es = s.es := rfl
@[simp] theorem State.setByte_ss (s : State) (a : Word) (v : Byte) : (s.setByte a v).ss = s.ss := rfl
@[simp] theorem State.setByte_ip (s : State) (a : Word) (v : Byte) : (s.setByte a v).ip = s.ip := rfl
@[simp] theorem State.setByte_flags (s : State) (a : Word) (v : Byte) : (s.setByte a v).flags = s.flags := rfl
@[simp] theorem State.setByte_mem (s : State) (a : Word) (v : Byte) : (s.setByte a v).mem = Memory.write s.mem a.toNat v :=
  rfl
@[simp] theorem State.setByte_events (s : State) (a : Word) (v : Byte) : (s.setByte a v).events = s.events := rfl
@[simp] theorem State.setByte_draws (s : State) (a : Word) (v : Byte) : (s.setByte a v).draws = s.draws := rfl
@[simp] theorem State.setByte_cfg (s : State) (a : Word) (v : Byte) : (s.setByte a v).cfg = s.cfg := rfl

/-! ### `setWord` -/

@[simp] theorem State.setWord_regs (s : State) (a v : Word) : (s.setWord a v).regs = s.regs := rfl
@[simp] theorem State.setWord_cs (s : State) (a v : Word) : (s.setWord a v).cs = s.cs := rfl
@[simp] theorem State.setWord_ds (s : State) (a v : Word) : (s.setWord a v).ds = s.ds := rfl
@[simp] theorem State.setWord_es (s : State) (a v : Word) : (s.setWord a v).es = s.es := rfl
@[simp] theorem State.setWord_ss (s : State) (a v : Word) : (s.setWord a v).ss = s.ss := rfl
@[simp] theorem State.setWord_ip (s : State) (a v : Word) : (s.setWord a v).ip = s.ip := rfl
@[simp] theorem State.setWord_flags (s : State) (a v : Word) : (s.setWord a v).flags = s.flags := rfl
@[simp] theorem State.setWord_mem (s : State) (a v : Word) : (s.setWord a v).mem = Memory.write (Memory.write s.mem a.toNat (lo8 v)) (a + 1#16).toNat (hi8 v) :=
  rfl
@[simp] theorem State.setWord_events (s : State) (a v : Word) : (s.setWord a v).events = s.events := rfl
@[simp] theorem State.setWord_draws (s : State) (a v : Word) : (s.setWord a v).draws = s.draws := rfl
@[simp] theorem State.setWord_cfg (s : State) (a v : Word) : (s.setWord a v).cfg = s.cfg := rfl

/-! ### `setReg16` -/

@[simp] theorem State.setReg16_regs (s : State) (r : Reg16) (v : Word) : (s.setReg16 r v).regs = s.regs.set r v := rfl
@[simp] theorem State.setReg16_cs (s : State) (r : Reg16) (v : Word) : (s.setReg16 r v).cs = s.cs := rfl
@[simp] theorem State.setReg16_ds (s : State) (r : Reg16) (v : Word) : (s.setReg16 r v).ds = s.ds := rfl
@[simp] theorem State.setReg16_es (s : State) (r : Reg16) (v : Word) : (s.setReg16 r v).es = s.es := rfl
@[simp] theorem State.setReg16_ss (s : State) (r : Reg16) (v : Word) : (s.setReg16 r v).ss = s.ss := rfl
@[simp] theorem State.setReg16_ip (s : State) (r : Reg16) (v : Word) : (s.setReg16 r v).ip = s.ip := rfl
@[simp] theorem State.setReg16_flags (s : State) (r : Reg16) (v : Word) : (s.setReg16 r v).flags = s.flags := rfl
@[simp] theorem State.setReg16_mem (s : State) (r : Reg16) (v : Word) : (s.setReg16 r v).mem = s.mem := rfl
@[simp] theorem State.setReg16_events (s : State) (r : Reg16) (v : Word) : (s.setReg16 r v).events = s.events := rfl
@[simp] theorem State.setReg16_draws (s : State) (r : Reg16) (v : Word) : (s.setReg16 r v).draws = s.draws := rfl
@[simp] theorem State.setReg16_cfg (s : State) (r : Reg16) (v : Word) : (s.setReg16 r v).cfg = s.cfg := rfl

/-! ### `setReg8` -/

@[simp] theorem State.setReg8_cs (s : State) (r : Reg8) (v : Byte) : (s.setReg8 r v).cs = s.cs := rfl
@[simp] theorem State.setReg8_ds (s : State) (r : Reg8) (v : Byte) : (s.setReg8 r v).ds = s.ds := rfl
@[simp] theorem State.setReg8_es (s : State) (r : Reg8) (v : Byte) : (s.setReg8 r v).es = s.es := rfl
@[simp] theorem State.setReg8_ss (s : State) (r : Reg8) (v : Byte) : (s.setReg8 r v).ss = s.ss := rfl
@[simp] theorem State.setReg8_ip (s : State) (r : Reg8) (v : Byte) : (s.setReg8 r v).ip = s.ip := rfl
@[simp] theorem State.setReg8_flags (s : State) (r : Reg8) (v : Byte) : (s.setReg8 r v).flags = s.flags := rfl
@[simp] theorem State.setReg8_mem (s : State) (r : Reg8) (v : Byte) : (s.setReg8 r v).mem = s.mem := rfl
@[simp] theorem State.setReg8_events (s : State) (r : Reg8) (v : Byte) : (s.setReg8 r v).events = s.events := rfl
@[simp] theorem State.setReg8_draws (s : State) (r : Reg8) (v : Byte) : (s.setReg8 r v).draws = s.draws := rfl
@[simp] theorem State.setReg8_cfg (s : State) (r : Reg8) (v : Byte) : (s.setReg8 r v).cfg = s.cfg := rfl

/-! ### `setFlags` -/

@[simp] theorem State.setFlags_regs (s : State) (f : Flags) : (s.setFlags f).regs = s.regs := rfl
@[simp] theorem State.setFlags_cs (s : State) (f : Flags) : (s.setFlags f).cs = s.cs := rfl
@[simp] theorem State.setFlags_ds (s : State) (f : Flags) : (s.setFlags f).ds = s.ds := rfl
@[simp] theorem State.setFlags_es (s : State) (f : Flags) : (s.setFlags f).es = s.es := rfl
@[simp] theorem State.setFlags_ss (s : State) (f : Flags) : (s.setFlags f).ss = s.ss := rfl
@[simp] theorem State.setFlags_ip (s : State) (f : Flags) : (s.setFlags f).ip = s.ip := rfl
@[simp] theorem State.setFlags_flags (s : State) (f : Flags) : (s.setFlags f).flags = f := rfl
@[simp] theorem State.setFlags_mem (s : State) (f : Flags) : (s.setFlags f).mem = s.mem := rfl
@[simp] theorem State.setFlags_events (s : State) (f : Flags) : (s.setFlags f).events = s.events := rfl
@[simp] theorem State.setFlags_draws (s : State) (f : Flags) : (s.setFlags f).draws = s.draws := rfl
@[simp] theorem State.setFlags_cfg (s : State) (f : Flags) : (s.setFlags f).cfg = s.cfg := rfl

/-! ### `jump` -/

@[simp] theorem State.jump_regs (s : State) (target : Word) : (s.jump target).regs = s.regs := rfl
@[simp] theorem State.jump_cs (s : State) (target : Word) : (s.jump target).cs = s.cs := rfl
@[simp] theorem State.jump_ds (s : State) (target : Word) : (s.jump target).ds = s.ds := rfl
@[simp] theorem State.jump_es (s : State) (target : Word) : (s.jump target).es = s.es := rfl
@[simp] theorem State.jump_ss (s : State) (target : Word) : (s.jump target).ss = s.ss := rfl
@[simp] theorem State.jump_ip (s : State) (target : Word) : (s.jump target).ip = target := rfl
@[simp] theorem State.jump_flags (s : State) (target : Word) : (s.jump target).flags = s.flags := rfl
@[simp] theorem State.jump_mem (s : State) (target : Word) : (s.jump target).mem = s.mem := rfl
@[simp] theorem State.jump_events (s : State) (target : Word) : (s.jump target).events = s.events := rfl
@[simp] theorem State.jump_draws (s : State) (target : Word) : (s.jump target).draws = s.draws := rfl
@[simp] theorem State.jump_cfg (s : State) (target : Word) : (s.jump target).cfg = s.cfg := rfl

/-! ### `advance` -/

@[simp] theorem State.advance_regs (s : State) (n : Nat) : (s.advance n).regs = s.regs := rfl
@[simp] theorem State.advance_cs (s : State) (n : Nat) : (s.advance n).cs = s.cs := rfl
@[simp] theorem State.advance_ds (s : State) (n : Nat) : (s.advance n).ds = s.ds := rfl
@[simp] theorem State.advance_es (s : State) (n : Nat) : (s.advance n).es = s.es := rfl
@[simp] theorem State.advance_ss (s : State) (n : Nat) : (s.advance n).ss = s.ss := rfl
@[simp] theorem State.advance_ip (s : State) (n : Nat) : (s.advance n).ip = s.pcAfter n := rfl
@[simp] theorem State.advance_flags (s : State) (n : Nat) : (s.advance n).flags = s.flags := rfl
@[simp] theorem State.advance_mem (s : State) (n : Nat) : (s.advance n).mem = s.mem := rfl
@[simp] theorem State.advance_events (s : State) (n : Nat) : (s.advance n).events = s.events := rfl
@[simp] theorem State.advance_draws (s : State) (n : Nat) : (s.advance n).draws = s.draws := rfl
@[simp] theorem State.advance_cfg (s : State) (n : Nat) : (s.advance n).cfg = s.cfg := rfl

/-! ### `setIdf` -/

@[simp] theorem State.setIdf_regs (s : State) : (s.setIdf).regs = s.regs := rfl
@[simp] theorem State.setIdf_cs (s : State) : (s.setIdf).cs = s.cs := rfl
@[simp] theorem State.setIdf_ds (s : State) : (s.setIdf).ds = s.ds := rfl
@[simp] theorem State.setIdf_es (s : State) : (s.setIdf).es = s.es := rfl
@[simp] theorem State.setIdf_ss (s : State) : (s.setIdf).ss = s.ss := rfl
@[simp] theorem State.setIdf_ip (s : State) : (s.setIdf).ip = s.ip := rfl
@[simp] theorem State.setIdf_flags (s : State) : (s.setIdf).flags = { s.flags with idf := true } := rfl
@[simp] theorem State.setIdf_mem (s : State) : (s.setIdf).mem = s.mem := rfl
@[simp] theorem State.setIdf_events (s : State) : (s.setIdf).events = s.events := rfl
@[simp] theorem State.setIdf_draws (s : State) : (s.setIdf).draws = s.draws := rfl
@[simp] theorem State.setIdf_cfg (s : State) : (s.setIdf).cfg = s.cfg := rfl

/-! ### `farJump` -/

@[simp] theorem State.farJump_regs (s : State) (c o : Word) : (s.farJump c o).regs = s.regs := rfl
@[simp] theorem State.farJump_cs (s : State) (c o : Word) : (s.farJump c o).cs = c := rfl
@[simp] theorem State.farJump_ds (s : State) (c o : Word) : (s.farJump c o).ds = s.ds := rfl
@[simp] theorem State.farJump_es (s : State) (c o : Word) : (s.farJump c o).es = s.es := rfl
@[simp] theorem State.farJump_ss (s : State) (c o : Word) : (s.farJump c o).ss = s.ss := rfl
@[simp] theorem State.farJump_ip (s : State) (c o : Word) : (s.farJump c o).ip = o := rfl
@[simp] theorem State.farJump_flags (s : State) (c o : Word) : (s.farJump c o).flags = s.flags := rfl
@[simp] theorem State.farJump_mem (s : State) (c o : Word) : (s.farJump c o).mem = s.mem := rfl
@[simp] theorem State.farJump_events (s : State) (c o : Word) : (s.farJump c o).events = s.events := rfl
@[simp] theorem State.farJump_draws (s : State) (c o : Word) : (s.farJump c o).draws = s.draws := rfl
@[simp] theorem State.farJump_cfg (s : State) (c o : Word) : (s.farJump c o).cfg = s.cfg := rfl

/-! ### `push16` -/

@[simp] theorem State.push16_regs (s : State) (v : Word) : (s.push16 v).regs = s.regs.set .sp (s.reg16 .sp - 2#16) :=
  rfl
@[simp] theorem State.push16_cs (s : State) (v : Word) : (s.push16 v).cs = s.cs := rfl
@[simp] theorem State.push16_ds (s : State) (v : Word) : (s.push16 v).ds = s.ds := rfl
@[simp] theorem State.push16_es (s : State) (v : Word) : (s.push16 v).es = s.es := rfl
@[simp] theorem State.push16_ss (s : State) (v : Word) : (s.push16 v).ss = s.ss := rfl
@[simp] theorem State.push16_ip (s : State) (v : Word) : (s.push16 v).ip = s.ip := rfl
@[simp] theorem State.push16_flags (s : State) (v : Word) : (s.push16 v).flags = s.flags := rfl
@[simp] theorem State.push16_events (s : State) (v : Word) : (s.push16 v).events = s.events := rfl
@[simp] theorem State.push16_draws (s : State) (v : Word) : (s.push16 v).draws = s.draws := rfl
@[simp] theorem State.push16_cfg (s : State) (v : Word) : (s.push16 v).cfg = s.cfg := rfl

/-! ### `dropWord` -/

@[simp] theorem State.dropWord_regs (s : State) : (s.dropWord).regs = s.regs.set .sp (s.reg16 .sp + 2#16) := rfl
@[simp] theorem State.dropWord_cs (s : State) : (s.dropWord).cs = s.cs := rfl
@[simp] theorem State.dropWord_ds (s : State) : (s.dropWord).ds = s.ds := rfl
@[simp] theorem State.dropWord_es (s : State) : (s.dropWord).es = s.es := rfl
@[simp] theorem State.dropWord_ss (s : State) : (s.dropWord).ss = s.ss := rfl
@[simp] theorem State.dropWord_ip (s : State) : (s.dropWord).ip = s.ip := rfl
@[simp] theorem State.dropWord_flags (s : State) : (s.dropWord).flags = s.flags := rfl
@[simp] theorem State.dropWord_mem (s : State) : (s.dropWord).mem = s.mem := rfl
@[simp] theorem State.dropWord_events (s : State) : (s.dropWord).events = s.events := rfl
@[simp] theorem State.dropWord_draws (s : State) : (s.dropWord).draws = s.draws := rfl
@[simp] theorem State.dropWord_cfg (s : State) : (s.dropWord).cfg = s.cfg := rfl

/-! ### `setMulFlags` -/

@[simp] theorem State.setMulFlags_regs (s : State) (high : Bool) : (s.setMulFlags high).regs = s.regs := rfl
@[simp] theorem State.setMulFlags_cs (s : State) (high : Bool) : (s.setMulFlags high).cs = s.cs := rfl
@[simp] theorem State.setMulFlags_ds (s : State) (high : Bool) : (s.setMulFlags high).ds = s.ds := rfl
@[simp] theorem State.setMulFlags_es (s : State) (high : Bool) : (s.setMulFlags high).es = s.es := rfl
@[simp] theorem State.setMulFlags_ss (s : State) (high : Bool) : (s.setMulFlags high).ss = s.ss := rfl
@[simp] theorem State.setMulFlags_ip (s : State) (high : Bool) : (s.setMulFlags high).ip = s.ip := rfl
@[simp] theorem State.setMulFlags_flags (s : State) (high : Bool) : (s.setMulFlags high).flags = s.flags.ofMul high (Config.freeFlag s.draws) (Config.freeFlag (s.draws + 1)) :=
  rfl
@[simp] theorem State.setMulFlags_mem (s : State) (high : Bool) : (s.setMulFlags high).mem = s.mem := rfl
@[simp] theorem State.setMulFlags_events (s : State) (high : Bool) : (s.setMulFlags high).events = s.events := rfl
@[simp] theorem State.setMulFlags_draws (s : State) (high : Bool) : (s.setMulFlags high).draws = s.draws + 2 := rfl
@[simp] theorem State.setMulFlags_cfg (s : State) (high : Bool) : (s.setMulFlags high).cfg = s.cfg := rfl

/-! ### `setDivFlags` -/

@[simp] theorem State.setDivFlags_regs (s : State) : (s.setDivFlags).regs = s.regs := rfl
@[simp] theorem State.setDivFlags_cs (s : State) : (s.setDivFlags).cs = s.cs := rfl
@[simp] theorem State.setDivFlags_ds (s : State) : (s.setDivFlags).ds = s.ds := rfl
@[simp] theorem State.setDivFlags_es (s : State) : (s.setDivFlags).es = s.es := rfl
@[simp] theorem State.setDivFlags_ss (s : State) : (s.setDivFlags).ss = s.ss := rfl
@[simp] theorem State.setDivFlags_ip (s : State) : (s.setDivFlags).ip = s.ip := rfl
@[simp] theorem State.setDivFlags_mem (s : State) : (s.setDivFlags).mem = s.mem := rfl
@[simp] theorem State.setDivFlags_events (s : State) : (s.setDivFlags).events = s.events := rfl
@[simp] theorem State.setDivFlags_draws (s : State) : (s.setDivFlags).draws = s.draws + 4 := rfl
@[simp] theorem State.setDivFlags_cfg (s : State) : (s.setDivFlags).cfg = s.cfg := rfl

/-! ### `emit` -/

@[simp] theorem State.emit_regs (s : State) (e : Option Event) : (s.emit e).regs = s.regs := rfl
@[simp] theorem State.emit_cs (s : State) (e : Option Event) : (s.emit e).cs = s.cs := rfl
@[simp] theorem State.emit_ds (s : State) (e : Option Event) : (s.emit e).ds = s.ds := rfl
@[simp] theorem State.emit_es (s : State) (e : Option Event) : (s.emit e).es = s.es := rfl
@[simp] theorem State.emit_ss (s : State) (e : Option Event) : (s.emit e).ss = s.ss := rfl
@[simp] theorem State.emit_ip (s : State) (e : Option Event) : (s.emit e).ip = s.ip := rfl
@[simp] theorem State.emit_flags (s : State) (e : Option Event) : (s.emit e).flags = s.flags := rfl
@[simp] theorem State.emit_mem (s : State) (e : Option Event) : (s.emit e).mem = s.mem := rfl
@[simp] theorem State.emit_events (s : State) (e : Option Event) : (s.emit e).events = s.events ++ e.toList := rfl
@[simp] theorem State.emit_draws (s : State) (e : Option Event) : (s.emit e).draws = s.draws := rfl
@[simp] theorem State.emit_cfg (s : State) (e : Option Event) : (s.emit e).cfg = s.cfg := rfl

/-! ### `writeRm8` -/

@[simp] theorem State.writeRm8_cs (s : State) (dst : RM8) (v : Byte) : (s.writeRm8 dst v).cs = s.cs :=
  by cases dst <;> rfl
@[simp] theorem State.writeRm8_ds (s : State) (dst : RM8) (v : Byte) : (s.writeRm8 dst v).ds = s.ds :=
  by cases dst <;> rfl
@[simp] theorem State.writeRm8_es (s : State) (dst : RM8) (v : Byte) : (s.writeRm8 dst v).es = s.es :=
  by cases dst <;> rfl
@[simp] theorem State.writeRm8_ss (s : State) (dst : RM8) (v : Byte) : (s.writeRm8 dst v).ss = s.ss :=
  by cases dst <;> rfl
@[simp] theorem State.writeRm8_ip (s : State) (dst : RM8) (v : Byte) : (s.writeRm8 dst v).ip = s.ip :=
  by cases dst <;> rfl
@[simp] theorem State.writeRm8_flags (s : State) (dst : RM8) (v : Byte) : (s.writeRm8 dst v).flags = s.flags :=
  by cases dst <;> rfl
@[simp] theorem State.writeRm8_events (s : State) (dst : RM8) (v : Byte) : (s.writeRm8 dst v).events = s.events :=
  by cases dst <;> rfl
@[simp] theorem State.writeRm8_draws (s : State) (dst : RM8) (v : Byte) : (s.writeRm8 dst v).draws = s.draws :=
  by cases dst <;> rfl
@[simp] theorem State.writeRm8_cfg (s : State) (dst : RM8) (v : Byte) : (s.writeRm8 dst v).cfg = s.cfg :=
  by cases dst <;> rfl

/-! ### `writeRm16` -/

@[simp] theorem State.writeRm16_cs (s : State) (dst : RM16) (v : Word) : (s.writeRm16 dst v).cs = s.cs :=
  by cases dst <;> rfl
@[simp] theorem State.writeRm16_ds (s : State) (dst : RM16) (v : Word) : (s.writeRm16 dst v).ds = s.ds :=
  by cases dst <;> rfl
@[simp] theorem State.writeRm16_es (s : State) (dst : RM16) (v : Word) : (s.writeRm16 dst v).es = s.es :=
  by cases dst <;> rfl
@[simp] theorem State.writeRm16_ss (s : State) (dst : RM16) (v : Word) : (s.writeRm16 dst v).ss = s.ss :=
  by cases dst <;> rfl
@[simp] theorem State.writeRm16_ip (s : State) (dst : RM16) (v : Word) : (s.writeRm16 dst v).ip = s.ip :=
  by cases dst <;> rfl
@[simp] theorem State.writeRm16_flags (s : State) (dst : RM16) (v : Word) : (s.writeRm16 dst v).flags = s.flags :=
  by cases dst <;> rfl
@[simp] theorem State.writeRm16_events (s : State) (dst : RM16) (v : Word) : (s.writeRm16 dst v).events = s.events :=
  by cases dst <;> rfl
@[simp] theorem State.writeRm16_draws (s : State) (dst : RM16) (v : Word) : (s.writeRm16 dst v).draws = s.draws :=
  by cases dst <;> rfl
@[simp] theorem State.writeRm16_cfg (s : State) (dst : RM16) (v : Word) : (s.writeRm16 dst v).cfg = s.cfg :=
  by cases dst <;> rfl

/-! ### Accessors under updates of other fields -/

@[simp] theorem State.reg16_setByte (s : State) (a : Word) (v : Byte) (r : Reg16) : (s.setByte a v).reg16 r = s.reg16 r :=
  rfl
@[simp] theorem State.reg8_setByte (s : State) (a : Word) (v : Byte) (r : Reg8) : (s.setByte a v).reg8 r = s.reg8 r :=
  rfl
@[simp] theorem State.seg_setByte (s : State) (a : Word) (v : Byte) (g : Seg) : (s.setByte a v).seg g = s.seg g :=
  by cases g <;> rfl
@[simp] theorem State.phys_setByte (s : State) (a : Word) (v : Byte) (x y : Word) : (s.setByte a v).phys x y = s.phys x y :=
  rfl
@[simp] theorem State.pcAfter_setByte (s : State) (a : Word) (v : Byte) (k : Nat) : (s.setByte a v).pcAfter k = s.pcAfter k :=
  rfl
@[simp] theorem State.reg16_setWord (s : State) (a v : Word) (r : Reg16) : (s.setWord a v).reg16 r = s.reg16 r := rfl
@[simp] theorem State.reg8_setWord (s : State) (a v : Word) (r : Reg8) : (s.setWord a v).reg8 r = s.reg8 r := rfl
@[simp] theorem State.seg_setWord (s : State) (a v : Word) (g : Seg) : (s.setWord a v).seg g = s.seg g :=
  by cases g <;> rfl
@[simp] theorem State.phys_setWord (s : State) (a v : Word) (x y : Word) : (s.setWord a v).phys x y = s.phys x y :=
  rfl
@[simp] theorem State.pcAfter_setWord (s : State) (a v : Word) (k : Nat) : (s.setWord a v).pcAfter k = s.pcAfter k :=
  rfl
@[simp] theorem State.seg_setReg16 (s : State) (r : Reg16) (v : Word) (g : Seg) : (s.setReg16 r v).seg g = s.seg g :=
  by cases g <;> rfl
@[simp] theorem State.byteAt_setReg16 (s : State) (r : Reg16) (v : Word) (x : Word) : (s.setReg16 r v).byteAt x = s.byteAt x :=
  rfl
@[simp] theorem State.wordAt_setReg16 (s : State) (r : Reg16) (v : Word) (x : Word) : (s.setReg16 r v).wordAt x = s.wordAt x :=
  rfl
@[simp] theorem State.phys_setReg16 (s : State) (r : Reg16) (v : Word) (x y : Word) : (s.setReg16 r v).phys x y = s.phys x y :=
  rfl
@[simp] theorem State.pcAfter_setReg16 (s : State) (r : Reg16) (v : Word) (k : Nat) : (s.setReg16 r v).pcAfter k = s.pcAfter k :=
  rfl
@[simp] theorem State.seg_setReg8 (s : State) (r : Reg8) (v : Byte) (g : Seg) : (s.setReg8 r v).seg g = s.seg g :=
  by cases g <;> rfl
@[simp] theorem State.byteAt_setReg8 (s : State) (r : Reg8) (v : Byte) (x : Word) : (s.setReg8 r v).byteAt x = s.byteAt x :=
  rfl
@[simp] theorem State.wordAt_setReg8 (s : State) (r : Reg8) (v : Byte) (x : Word) : (s.setReg8 r v).wordAt x = s.wordAt x :=
  rfl
@[simp] theorem State.phys_setReg8 (s : State) (r : Reg8) (v : Byte) (x y : Word) : (s.setReg8 r v).phys x y = s.phys x y :=
  rfl
@[simp] theorem State.pcAfter_setReg8 (s : State) (r : Reg8) (v : Byte) (k : Nat) : (s.setReg8 r v).pcAfter k = s.pcAfter k :=
  rfl
@[simp] theorem State.reg16_setFlags (s : State) (f : Flags) (r : Reg16) : (s.setFlags f).reg16 r = s.reg16 r := rfl
@[simp] theorem State.reg8_setFlags (s : State) (f : Flags) (r : Reg8) : (s.setFlags f).reg8 r = s.reg8 r := rfl
@[simp] theorem State.seg_setFlags (s : State) (f : Flags) (g : Seg) : (s.setFlags f).seg g = s.seg g :=
  by cases g <;> rfl
@[simp] theorem State.byteAt_setFlags (s : State) (f : Flags) (x : Word) : (s.setFlags f).byteAt x = s.byteAt x := rfl
@[simp] theorem State.wordAt_setFlags (s : State) (f : Flags) (x : Word) : (s.setFlags f).wordAt x = s.wordAt x := rfl
@[simp] theorem State.phys_setFlags (s : State) (f : Flags) (x y : Word) : (s.setFlags f).phys x y = s.phys x y := rfl
@[simp] theorem State.pcAfter_setFlags (s : State) (f : Flags) (k : Nat) : (s.setFlags f).pcAfter k = s.pcAfter k :=
  rfl
@[simp] theorem State.reg16_jump (s : State) (target : Word) (r : Reg16) : (s.jump target).reg16 r = s.reg16 r := rfl
@[simp] theorem State.reg8_jump (s : State) (target : Word) (r : Reg8) : (s.jump target).reg8 r = s.reg8 r := rfl
@[simp] theorem State.seg_jump (s : State) (target : Word) (g : Seg) : (s.jump target).seg g = s.seg g :=
  by cases g <;> rfl
@[simp] theorem State.byteAt_jump (s : State) (target : Word) (x : Word) : (s.jump target).byteAt x = s.byteAt x :=
  rfl
@[simp] theorem State.wordAt_jump (s : State) (target : Word) (x : Word) : (s.jump target).wordAt x = s.wordAt x :=
  rfl
@[simp] theorem State.phys_jump (s : State) (target : Word) (x y : Word) : (s.jump target).phys x y = s.phys x y :=
  rfl
@[simp] theorem State.reg16_advance (s : State) (n : Nat) (r : Reg16) : (s.advance n).reg16 r = s.reg16 r := rfl
@[simp] theorem State.reg8_advance (s : State) (n : Nat) (r : Reg8) : (s.advance n).reg8 r = s.reg8 r := rfl
@[simp] theorem State.seg_advance (s : State) (n : Nat) (g : Seg) : (s.advance n).seg g = s.seg g :=
  by cases g <;> rfl
@[simp] theorem State.byteAt_advance (s : State) (n : Nat) (x : Word) : (s.advance n).byteAt x = s.byteAt x := rfl
@[simp] theorem State.wordAt_advance (s : State) (n : Nat) (x : Word) : (s.advance n).wordAt x = s.wordAt x := rfl
@[simp] theorem State.phys_advance (s : State) (n : Nat) (x y : Word) : (s.advance n).phys x y = s.phys x y := rfl
@[simp] theorem State.reg16_setIdf (s : State) (r : Reg16) : (s.setIdf).reg16 r = s.reg16 r := rfl
@[simp] theorem State.reg8_setIdf (s : State) (r : Reg8) : (s.setIdf).reg8 r = s.reg8 r := rfl
@[simp] theorem State.seg_setIdf (s : State) (g : Seg) : (s.setIdf).seg g = s.seg g := by cases g <;> rfl
@[simp] theorem State.byteAt_setIdf (s : State) (x : Word) : (s.setIdf).byteAt x = s.byteAt x := rfl
@[simp] theorem State.wordAt_setIdf (s : State) (x : Word) : (s.setIdf).wordAt x = s.wordAt x := rfl
@[simp] theorem State.phys_setIdf (s : State) (x y : Word) : (s.setIdf).phys x y = s.phys x y := rfl
@[simp] theorem State.pcAfter_setIdf (s : State) (k : Nat) : (s.setIdf).pcAfter k = s.pcAfter k := rfl
@[simp] theorem State.reg16_farJump (s : State) (c o : Word) (r : Reg16) : (s.farJump c o).reg16 r = s.reg16 r := rfl
@[simp] theorem State.reg8_farJump (s : State) (c o : Word) (r : Reg8) : (s.farJump c o).reg8 r = s.reg8 r := rfl
@[simp] theorem State.byteAt_farJump (s : State) (c o : Word) (x : Word) : (s.farJump c o).byteAt x = s.byteAt x :=
  rfl
@[simp] theorem State.wordAt_farJump (s : State) (c o : Word) (x : Word) : (s.farJump c o).wordAt x = s.wordAt x :=
  rfl
@[simp] theorem State.phys_farJump (s : State) (c o : Word) (x y : Word) : (s.farJump c o).phys x y = s.phys x y :=
  rfl
@[simp] theorem State.seg_push16 (s : State) (v : Word) (g : Seg) : (s.push16 v).seg g = s.seg g := by cases g <;> rfl
@[simp] theorem State.phys_push16 (s : State) (v : Word) (x y : Word) : (s.push16 v).phys x y = s.phys x y := rfl
@[simp] theorem State.pcAfter_push16 (s : State) (v : Word) (k : Nat) : (s.push16 v).pcAfter k = s.pcAfter k := rfl
@[simp] theorem State.seg_dropWord (s : State) (g : Seg) : (s.dropWord).seg g = s.seg g := by cases g <;> rfl
@[simp] theorem State.byteAt_dropWord (s : State) (x : Word) : (s.dropWord).byteAt x = s.byteAt x := rfl
@[simp] theorem State.wordAt_dropWord (s : State) (x : Word) : (s.dropWord).wordAt x = s.wordAt x := rfl
@[simp] theorem State.phys_dropWord (s : State) (x y : Word) : (s.dropWord).phys x y = s.phys x y := rfl
@[simp] theorem State.pcAfter_dropWord (s : State) (k : Nat) : (s.dropWord).pcAfter k = s.pcAfter k := rfl
@[simp] theorem State.reg16_setMulFlags (s : State) (high : Bool) (r : Reg16) : (s.setMulFlags high).reg16 r = s.reg16 r :=
  rfl
@[simp] theorem State.reg8_setMulFlags (s : State) (high : Bool) (r : Reg8) : (s.setMulFlags high).reg8 r = s.reg8 r :=
  rfl
@[simp] theorem State.seg_setMulFlags (s : State) (high : Bool) (g : Seg) : (s.setMulFlags high).seg g = s.seg g :=
  by cases g <;> rfl
@[simp] theorem State.byteAt_setMulFlags (s : State) (high : Bool) (x : Word) : (s.setMulFlags high).byteAt x = s.byteAt x :=
  rfl
@[simp] theorem State.wordAt_setMulFlags (s : State) (high : Bool) (x : Word) : (s.setMulFlags high).wordAt x = s.wordAt x :=
  rfl
@[simp] theorem State.phys_setMulFlags (s : State) (high : Bool) (x y : Word) : (s.setMulFlags high).phys x y = s.phys x y :=
  rfl
@[simp] theorem State.pcAfter_setMulFlags (s : State) (high : Bool) (k : Nat) : (s.setMulFlags high).pcAfter k = s.pcAfter k :=
  rfl
@[simp] theorem State.reg16_setDivFlags (s : State) (r : Reg16) : (s.setDivFlags).reg16 r = s.reg16 r := rfl
@[simp] theorem State.reg8_setDivFlags (s : State) (r : Reg8) : (s.setDivFlags).reg8 r = s.reg8 r := rfl
@[simp] theorem State.seg_setDivFlags (s : State) (g : Seg) : (s.setDivFlags).seg g = s.seg g := by cases g <;> rfl
@[simp] theorem State.byteAt_setDivFlags (s : State) (x : Word) : (s.setDivFlags).byteAt x = s.byteAt x := rfl
@[simp] theorem State.wordAt_setDivFlags (s : State) (x : Word) : (s.setDivFlags).wordAt x = s.wordAt x := rfl
@[simp] theorem State.phys_setDivFlags (s : State) (x y : Word) : (s.setDivFlags).phys x y = s.phys x y := rfl
@[simp] theorem State.pcAfter_setDivFlags (s : State) (k : Nat) : (s.setDivFlags).pcAfter k = s.pcAfter k := rfl
@[simp] theorem State.reg16_emit (s : State) (e : Option Event) (r : Reg16) : (s.emit e).reg16 r = s.reg16 r := rfl
@[simp] theorem State.reg8_emit (s : State) (e : Option Event) (r : Reg8) : (s.emit e).reg8 r = s.reg8 r := rfl
@[simp] theorem State.seg_emit (s : State) (e : Option Event) (g : Seg) : (s.emit e).seg g = s.seg g :=
  by cases g <;> rfl
@[simp] theorem State.byteAt_emit (s : State) (e : Option Event) (x : Word) : (s.emit e).byteAt x = s.byteAt x := rfl
@[simp] theorem State.wordAt_emit (s : State) (e : Option Event) (x : Word) : (s.emit e).wordAt x = s.wordAt x := rfl
@[simp] theorem State.phys_emit (s : State) (e : Option Event) (x y : Word) : (s.emit e).phys x y = s.phys x y := rfl
@[simp] theorem State.pcAfter_emit (s : State) (e : Option Event) (k : Nat) : (s.emit e).pcAfter k = s.pcAfter k :=
  rfl
@[simp] theorem State.seg_writeRm8 (s : State) (dst : RM8) (v : Byte) (g : Seg) : (s.writeRm8 dst v).seg g = s.seg g :=
  by cases dst <;> cases g <;> rfl
@[simp] theorem State.phys_writeRm8 (s : State) (dst : RM8) (v : Byte) (x y : Word) : (s.writeRm8 dst v).phys x y = s.phys x y :=
  by cases dst <;> rfl
@[simp] theorem State.pcAfter_writeRm8 (s : State) (dst : RM8) (v : Byte) (k : Nat) : (s.writeRm8 dst v).pcAfter k = s.pcAfter k :=
  by cases dst <;> rfl
@[simp] theorem State.seg_writeRm16 (s : State) (dst : RM16) (v : Word) (g : Seg) : (s.writeRm16 dst v).seg g = s.seg g :=
  by cases dst <;> cases g <;> rfl
@[simp] theorem State.phys_writeRm16 (s : State) (dst : RM16) (v : Word) (x y : Word) : (s.writeRm16 dst v).phys x y = s.phys x y :=
  by cases dst <;> rfl
@[simp] theorem State.pcAfter_writeRm16 (s : State) (dst : RM16) (v : Word) (k : Nat) : (s.writeRm16 dst v).pcAfter k = s.pcAfter k :=
  by cases dst <;> rfl

end Sys2Proof.Machine
end

