-- ==== Sys2Proof/Laws/Memory.lean ====
section
/-! SUPPORT. The laws of memory: a read after a write to the same place gives the value written, a write leaves
every other place alone, and every memory operation keeps the canonical form (spec/20_memory.md R63, R68). -/

namespace Sys2Proof.Machine

/-! ### The list of cells -/

theorem Memory.read_insert_same (m : Memory) (a : Nat) (v : Byte)
    (hm : ∀ u, (a, u) ∉ m) : Memory.read (Memory.insert m a v) a = v := by
  induction m with
  | nil => simp [Memory.insert, Memory.read]
  | cons c m ih =>
    obtain ⟨k, u⟩ := c
    have hk : k ≠ a := fun e => hm u (by simp [e])
    simp only [Memory.insert]
    split
    · simp [Memory.read]
    · simp only [Memory.read, hk, if_false]
      exact ih (fun w hw => hm w (List.mem_cons_of_mem _ hw))

theorem Memory.read_insert_ne (m : Memory) {a b : Nat} (v : Byte) (h : a ≠ b) :
    Memory.read (Memory.insert m a v) b = Memory.read m b := by
  induction m with
  | nil => simp [Memory.insert, Memory.read, h]
  | cons c m ih =>
    obtain ⟨k, u⟩ := c
    simp only [Memory.insert]
    split
    · simp [Memory.read, h]
    · simp only [Memory.read, ih]

theorem Memory.not_mem_erase (m : Memory) (a : Nat) (u : Byte) : (a, u) ∉ Memory.erase m a := by
  induction m with
  | nil => simp [Memory.erase]
  | cons c m ih =>
    obtain ⟨k, w⟩ := c
    simp only [Memory.erase]
    split
    · exact ih
    · rename_i hk
      simp only [List.mem_cons, Prod.mk.injEq, not_or]
      exact ⟨fun e => hk e.1.symm, ih⟩

theorem Memory.read_of_not_mem (m : Memory) (a : Nat) (h : ∀ u, (a, u) ∉ m) : Memory.read m a = 0#8 := by
  induction m with
  | nil => rfl
  | cons c m ih =>
    obtain ⟨k, w⟩ := c
    have hk : k ≠ a := fun e => h w (by simp [e])
    simp only [Memory.read, hk, if_false]
    exact ih (fun u hu => h u (List.mem_cons_of_mem _ hu))

theorem Memory.read_erase_ne (m : Memory) {a b : Nat} (h : a ≠ b) :
    Memory.read (Memory.erase m a) b = Memory.read m b := by
  induction m with
  | nil => rfl
  | cons c m ih =>
    obtain ⟨k, w⟩ := c
    simp only [Memory.erase]
    split
    · rename_i hk
      have hb : k ≠ b := fun e => h (hk.symm.trans e)
      simp [Memory.read, hb, ih]
    · simp only [Memory.read, ih]

/-- A read after a write to the same address. -/
theorem Memory.read_write_same (m : Memory) (a : Nat) (v : Byte) : Memory.read (Memory.write m a v) a = v := by
  simp only [Memory.write]
  split
  · rename_i hv
    rw [hv]
    exact Memory.read_of_not_mem _ _ (Memory.not_mem_erase m a)
  · exact Memory.read_insert_same _ _ _ (Memory.not_mem_erase m a)

/-- A read after a write to another address. -/
theorem Memory.read_write_ne (m : Memory) {a b : Nat} (v : Byte) (h : a ≠ b) :
    Memory.read (Memory.write m a v) b = Memory.read m b := by
  simp only [Memory.write]
  split
  · exact Memory.read_erase_ne m h
  · rw [Memory.read_insert_ne _ _ h, Memory.read_erase_ne m h]

/-! ### The canonical form -/

theorem Memory.wfFrom_cons (low k : Nat) (v : Byte) (m : Memory) :
    Memory.wfFrom low ((k, v) :: m) = true ↔
      low ≤ k ∧ k < 65536 ∧ v ≠ 0#8 ∧ Memory.wfFrom (k + 1) m = true := by
  simp only [Memory.wfFrom, Bool.and_eq_true, decide_eq_true_eq, bne_iff_ne]
  tauto

theorem Memory.wfFrom_mono {low low' : Nat} (m : Memory) (h : low' ≤ low) (hm : Memory.wfFrom low m = true) :
    Memory.wfFrom low' m = true := by
  cases m with
  | nil => rfl
  | cons c m =>
    obtain ⟨k, v⟩ := c
    rw [Memory.wfFrom_cons] at hm ⊢
    exact ⟨h.trans hm.1, hm.2⟩

theorem Memory.wfFrom_erase (m : Memory) (low a : Nat) (hm : Memory.wfFrom low m = true) :
    Memory.wfFrom low (Memory.erase m a) = true := by
  induction m generalizing low with
  | nil => rfl
  | cons c m ih =>
    obtain ⟨k, v⟩ := c
    rw [Memory.wfFrom_cons] at hm
    simp only [Memory.erase]
    split
    · exact ih low (Memory.wfFrom_mono m (by omega) hm.2.2.2)
    · rw [Memory.wfFrom_cons]
      exact ⟨hm.1, hm.2.1, hm.2.2.1, ih _ hm.2.2.2⟩

theorem Memory.wfFrom_insert (m : Memory) (low a : Nat) (v : Byte) (hv : v ≠ 0#8) (ha : a < 65536)
    (hlow : low ≤ a) (hm : Memory.wfFrom low m = true) (hn : ∀ u, (a, u) ∉ m) :
    Memory.wfFrom low (Memory.insert m a v) = true := by
  induction m generalizing low with
  | nil => simp [Memory.insert, Memory.wfFrom, hv, ha, hlow]
  | cons c m ih =>
    obtain ⟨k, u⟩ := c
    have hk : k ≠ a := fun e => hn u (by simp [e])
    rw [Memory.wfFrom_cons] at hm
    simp only [Memory.insert]
    split
    · rw [Memory.wfFrom_cons, Memory.wfFrom_cons]
      exact ⟨hlow, ha, hv, by omega, hm.2⟩
    · rw [Memory.wfFrom_cons]
      exact ⟨hm.1, hm.2.1, hm.2.2.1,
        ih (k + 1) (by omega) hm.2.2.2 (fun w hw => hn w (List.mem_cons_of_mem _ hw))⟩

/-- A write below 65536 keeps the canonical form. -/
theorem Memory.wf_write (m : Memory) (a : Nat) (v : Byte) (ha : a < 65536) (hm : Memory.wf m = true) :
    Memory.wf (Memory.write m a v) = true := by
  simp only [Memory.wf, Memory.write] at hm ⊢
  split
  · exact Memory.wfFrom_erase m 0 a hm
  · rename_i hv
    exact Memory.wfFrom_insert _ 0 a v hv ha (Nat.zero_le _) (Memory.wfFrom_erase m 0 a hm)
      (Memory.not_mem_erase m a)

/-! ### Bytes and words of the state -/

@[simp] theorem State.byteAt_setByte_same (s : State) (a : Word) (v : Byte) : (s.setByte a v).byteAt a = v :=
  Memory.read_write_same _ _ _

theorem State.byteAt_setByte_ne (s : State) {a b : Word} (v : Byte) (h : b ≠ a) :
    (s.setByte a v).byteAt b = s.byteAt b :=
  Memory.read_write_ne _ _ (fun e => h (BitVec.eq_of_toNat_eq e.symm))

/-- What a word write does to every byte (20_memory.md R63). -/
theorem State.byteAt_setWord (s : State) (a v b : Word) :
    (s.setWord a v).byteAt b = if b = a + 1#16 then hi8 v else if b = a then lo8 v else s.byteAt b := by
  simp only [State.setWord]
  by_cases h1 : b = a + 1#16
  · subst h1; simp
  · rw [State.byteAt_setByte_ne _ _ h1, if_neg h1]
    by_cases h0 : b = a
    · subst h0; simp
    · rw [State.byteAt_setByte_ne _ _ h0, if_neg h0]

theorem State.byteAt_setWord_ne (s : State) {a b : Word} (v : Word) (h0 : b ≠ a) (h1 : b ≠ a + 1#16) :
    (s.setWord a v).byteAt b = s.byteAt b := by
  rw [State.byteAt_setWord, if_neg h1, if_neg h0]

/-- A word read after a word write to the same address. -/
@[simp] theorem State.wordAt_setWord_same (s : State) (a v : Word) : (s.setWord a v).wordAt a = v := by
  simp [State.wordAt, State.byteAt_setWord]

/-- A word read is two byte reads: words agree where their bytes do. -/
theorem State.wordAt_congr {s t : State} {a : Word} (h0 : t.byteAt a = s.byteAt a)
    (h1 : t.byteAt (a + 1#16) = s.byteAt (a + 1#16)) : t.wordAt a = s.wordAt a := by
  rw [State.wordAt, State.wordAt, h0, h1]

theorem State.wf_setByte (s : State) (a : Word) (v : Byte) (h : Memory.wf s.mem = true) :
    Memory.wf (s.setByte a v).mem = true :=
  Memory.wf_write _ _ _ a.isLt h

theorem State.wf_setWord (s : State) (a v : Word) (h : Memory.wf s.mem = true) :
    Memory.wf (s.setWord a v).mem = true :=
  State.wf_setByte _ _ _ (State.wf_setByte _ _ _ h)

theorem State.wf_push16 (s : State) (v : Word) (h : Memory.wf s.mem = true) :
    Memory.wf (s.push16 v).mem = true :=
  State.wf_setWord _ _ _ h

theorem State.wf_storeBytes (bs : List Byte) (s : State) (a : Word) (h : Memory.wf s.mem = true) :
    Memory.wf (s.storeBytes a bs).mem = true := by
  induction bs generalizing s a with
  | nil => exact h
  | cons b bs ih => exact ih _ _ (State.wf_setByte _ _ _ h)

theorem State.wf_writeRm8 (s : State) (dst : RM8) (v : Byte) (h : Memory.wf s.mem = true) :
    Memory.wf (s.writeRm8 dst v).mem = true := by
  cases dst
  · simpa [State.writeRm8] using h
  · exact State.wf_setByte _ _ _ h

theorem State.wf_writeRm16 (s : State) (dst : RM16) (v : Word) (h : Memory.wf s.mem = true) :
    Memory.wf (s.writeRm16 dst v).mem = true := by
  cases dst
  · simpa [State.writeRm16] using h
  · exact State.wf_setWord _ _ _ h

theorem State.wf_enterInterrupt (s : State) (r c o : Word) (h : Memory.wf s.mem = true) :
    Memory.wf (s.enterInterrupt r c o).mem = true :=
  State.wf_push16 _ _ (State.wf_push16 _ _ (State.wf_push16 _ _ h))

theorem State.reset_wf (c : Config) : Memory.wf (State.resetWith c).mem = true := rfl

end Sys2Proof.Machine
end

