-- ==== Sys2Proof/Laws/Registers.lean ====
section
/-! SUPPORT. The laws of the register file: 16-bit registers and their 8-bit halves (spec/10_state.md R20 to
R23). -/

namespace Sys2Proof.Machine

theorem Regs.get_set_same (g : Regs) (r : Reg16) (v : Word) : (g.set r v).get r = v := by
  cases r <;> rfl

theorem Regs.get_set_ne (g : Regs) {r q : Reg16} (v : Word) (h : q ≠ r) : (g.set r v).get q = g.get q := by
  cases r <;> cases q <;> first | rfl | exact absurd rfl h

@[simp] theorem State.reg16_setReg16_same (s : State) (r : Reg16) (v : Word) : (s.setReg16 r v).reg16 r = v :=
  Regs.get_set_same _ _ _

theorem State.reg16_setReg16_ne (s : State) {r q : Reg16} (v : Word) (h : q ≠ r) :
    (s.setReg16 r v).reg16 q = s.reg16 q :=
  Regs.get_set_ne _ _ h

theorem State.reg16_setReg16 (s : State) (r q : Reg16) (v : Word) :
    (s.setReg16 r v).reg16 q = if q = r then v else s.reg16 q := by
  by_cases h : q = r
  · subst h; simp
  · rw [if_neg h, State.reg16_setReg16_ne _ _ h]

/-- An 8-bit register is a half of a 16-bit one. -/
theorem State.reg8_eq (s : State) (r : Reg8) :
    s.reg8 r = if isHigh r then hi8 (s.reg16 (whole r)) else lo8 (s.reg16 (whole r)) := rfl

/-- An 8-bit register reads what was written to it (10_state.md R23). -/
@[simp] theorem State.reg8_setReg8_same (s : State) (r : Reg8) (v : Byte) : (s.setReg8 r v).reg8 r = v := by
  cases r <;> simp [State.reg8_eq, State.setReg8, isHigh, whole]

/-- A write of one 8-bit register leaves the other seven alone (10_state.md R23). -/
theorem State.reg8_setReg8_ne (s : State) {r q : Reg8} (v : Byte) (h : q ≠ r) :
    (s.setReg8 r v).reg8 q = s.reg8 q := by
  cases r <;> cases q <;> first
    | exact absurd rfl h
    | simp [State.reg8_eq, State.setReg8, isHigh, whole, State.reg16_setReg16]

/-- A write of an 8-bit register leaves every 16-bit register alone but the one it is a half of. -/
theorem State.reg16_setReg8_ne (s : State) {r : Reg8} {q : Reg16} (v : Byte) (h : q ≠ whole r) :
    (s.setReg8 r v).reg16 q = s.reg16 q :=
  State.reg16_setReg16_ne _ _ h

theorem State.reg16_setReg8_whole (s : State) (r : Reg8) (v : Byte) :
    (s.setReg8 r v).reg16 (whole r) =
      if isHigh r then mkWord v (lo8 (s.reg16 (whole r))) else mkWord (hi8 (s.reg16 (whole r))) v := by
  simp [State.setReg8]

/-- An 8-bit register is as before where the word it is a half of is. -/
theorem State.reg8_congr {s t : State} {r : Reg8} (h : t.reg16 (whole r) = s.reg16 (whole r)) :
    t.reg8 r = s.reg8 r := by
  rw [State.reg8_eq, State.reg8_eq, h]

theorem State.reg8_setReg16_ne (s : State) {r : Reg16} {q : Reg8} (v : Word) (h : whole q ≠ r) :
    (s.setReg16 r v).reg8 q = s.reg8 q :=
  State.reg8_congr (State.reg16_setReg16_ne _ _ h)

end Sys2Proof.Machine
end

