-- ==== Sys2Proof/Laws/Frames.lean ====
section
/-! SUPPORT. What each shared operation does, said once with its frame: writes of `r/m` operands, registers and
memory, the stack, interrupt entry and return. The statements of an instruction cite these and do not unfold the
operations again. -/

namespace Sys2Proof.Machine

/-! ### Frames -/

theorem Frame.refl (s : State) : Frame s s [] [] :=
  ⟨fun _ _ => rfl, fun _ => rfl, fun _ _ => rfl, rfl, rfl⟩

/-- Frames compose: what neither step may change, both together leave alone. -/
theorem Frame.trans {s t u : State} {rs qs : List Reg16} {xs ys : List Word} (h : Frame s t rs xs)
    (k : Frame t u qs ys) : Frame s u (rs ++ qs) (xs ++ ys) where
  regs_kept r hr := by
    rw [List.mem_append, not_or] at hr
    rw [k.regs_kept r hr.2, h.regs_kept r hr.1]
  segs_kept g := by rw [k.segs_kept, h.segs_kept]
  bytes_kept a ha := by
    rw [List.mem_append, not_or] at ha
    rw [k.bytes_kept a ha.2, h.bytes_kept a ha.1]
  events_kept := by rw [k.events_kept, h.events_kept]
  cfg_kept := by rw [k.cfg_kept, h.cfg_kept]

/-- A frame may be widened. -/
theorem Frame.mono {s t : State} {rs qs : List Reg16} {xs ys : List Word} (h : Frame s t rs xs)
    (hr : ∀ r ∈ rs, r ∈ qs) (hx : ∀ a ∈ xs, a ∈ ys) : Frame s t qs ys where
  regs_kept r h' := h.regs_kept r (fun m => h' (hr r m))
  segs_kept := h.segs_kept
  bytes_kept a h' := h.bytes_kept a (fun m => h' (hx a m))
  events_kept := h.events_kept
  cfg_kept := h.cfg_kept

/-- Flags are outside every frame. -/
theorem Frame.setFlags {s t : State} {rs : List Reg16} {xs : List Word} (h : Frame s t rs xs) (f : Flags) :
    Frame s (t.setFlags f) rs xs :=
  ⟨h.regs_kept, fun g => by rw [← h.segs_kept g]; cases g <;> rfl, h.bytes_kept, h.events_kept, h.cfg_kept⟩

/-- The instruction pointer is outside every frame. -/
theorem Frame.jump {s t : State} {rs : List Reg16} {xs : List Word} (h : Frame s t rs xs) (target : Word) :
    Frame s (t.jump target) rs xs :=
  ⟨h.regs_kept, fun g => by rw [← h.segs_kept g]; cases g <;> rfl, h.bytes_kept, h.events_kept, h.cfg_kept⟩

theorem Frame.advance {s t : State} {rs : List Reg16} {xs : List Word} (h : Frame s t rs xs) (n : Nat) :
    Frame s (t.advance n) rs xs :=
  h.jump _

theorem Frame.setMulFlags {s t : State} {rs : List Reg16} {xs : List Word} (h : Frame s t rs xs) (b : Bool) :
    Frame s (t.setMulFlags b) rs xs :=
  ⟨h.regs_kept, fun g => by rw [← h.segs_kept g]; cases g <;> rfl, h.bytes_kept, h.events_kept, h.cfg_kept⟩

theorem Frame.setDivFlags {s t : State} {rs : List Reg16} {xs : List Word} (h : Frame s t rs xs) :
    Frame s t.setDivFlags rs xs :=
  ⟨h.regs_kept, fun g => by rw [← h.segs_kept g]; cases g <;> rfl, h.bytes_kept, h.events_kept, h.cfg_kept⟩

/-! ### Writes of registers and memory -/

theorem frame_setReg16 (s : State) (r : Reg16) (v : Word) : Frame s (s.setReg16 r v) [r] [] :=
  ⟨fun q hq => State.reg16_setReg16_ne _ _ (by simpa using hq), fun g => by cases g <;> rfl, fun _ _ => rfl, rfl,
    rfl⟩

theorem frame_setReg8 (s : State) (r : Reg8) (v : Byte) : Frame s (s.setReg8 r v) [whole r] [] :=
  frame_setReg16 _ _ _

theorem frame_setByte (s : State) (a : Word) (v : Byte) : Frame s (s.setByte a v) [] [a] :=
  ⟨fun _ _ => rfl, fun g => by cases g <;> rfl, fun b hb => State.byteAt_setByte_ne _ _ (by simpa using hb), rfl,
    rfl⟩

theorem frame_setWord (s : State) (a v : Word) : Frame s (s.setWord a v) [] (wordSpan a) where
  regs_kept _ _ := rfl
  segs_kept g := by cases g <;> rfl
  bytes_kept b hb := by
    simp only [wordSpan, List.mem_cons, List.not_mem_nil, or_false, not_or] at hb
    exact State.byteAt_setWord_ne _ _ hb.1 hb.2
  events_kept := rfl
  cfg_kept := rfl

/-! ### Writes of `r/m` operands (30_encoding.md R108) -/

theorem holds8_writeRm8 (s : State) (dst : RM8) (v : Byte) : Holds8 s (s.writeRm8 dst v) dst v := by
  cases dst with
  | reg r =>
    refine ⟨State.reg8_setReg8_same _ _ _, fun q hq => State.reg8_setReg8_ne _ _ (fun e => hq (by rw [e]))⟩
  | mem m => exact ⟨State.byteAt_setByte_same _ _ _, fun _ _ => rfl⟩

theorem holds16_writeRm16 (s : State) (dst : RM16) (v : Word) : Holds16 s (s.writeRm16 dst v) dst v := by
  cases dst with
  | reg r => exact State.reg16_setReg16_same _ _ _
  | mem m => exact State.wordAt_setWord_same _ _ _

theorem Holds8.setFlags {s t : State} {dst : RM8} {v : Byte} (h : Holds8 s t dst v) (f : Flags) :
    Holds8 s (t.setFlags f) dst v := by
  cases dst <;> exact h

theorem Holds8.advance {s t : State} {dst : RM8} {v : Byte} (h : Holds8 s t dst v) (n : Nat) :
    Holds8 s (t.advance n) dst v := by
  cases dst <;> exact h

theorem Holds16.setFlags {s t : State} {dst : RM16} {v : Word} (h : Holds16 s t dst v) (f : Flags) :
    Holds16 s (t.setFlags f) dst v := by
  cases dst <;> exact h

theorem Holds16.advance {s t : State} {dst : RM16} {v : Word} (h : Holds16 s t dst v) (n : Nat) :
    Holds16 s (t.advance n) dst v := by
  cases dst <;> exact h

theorem frame_writeRm8 (s : State) (dst : RM8) (v : Byte) :
    Frame s (s.writeRm8 dst v) (destRegs8 dst) (storedBytes8 s dst) := by
  cases dst with
  | reg r => exact frame_setReg8 s r v
  | mem m => exact frame_setByte s _ v

theorem frame_writeRm16 (s : State) (dst : RM16) (v : Word) :
    Frame s (s.writeRm16 dst v) (destRegs16 dst) (storedBytes16 s dst) := by
  cases dst with
  | reg r => exact frame_setReg16 s r v
  | mem m => exact frame_setWord s _ v

/-! ### The stack (44_stack_call_ret.md R290, R291) -/

/-- Offsets add up inside a segment (20_memory.md R64). -/
theorem State.phys_add (s : State) (seg off k : Word) : s.phys seg (off + k) = s.phys seg off + k := by
  simp only [State.phys, BitVec.add_assoc]

/-- Two offsets of one segment have the same physical address only when they are equal (20_memory.md R61). -/
theorem State.phys_inj (s : State) (seg : Word) {x y : Word} (h : s.phys seg x = s.phys seg y) : x = y := by
  simp only [State.phys] at h
  exact (BitVec.add_right_inj _).mp h

@[simp] theorem State.push16_sp (s : State) (v : Word) : (s.push16 v).reg16 .sp = s.reg16 .sp - 2#16 := rfl

theorem State.reg16_push16_ne (s : State) {q : Reg16} (v : Word) (h : q ≠ .sp) :
    (s.push16 v).reg16 q = s.reg16 q :=
  State.reg16_setReg16_ne s _ h

/-- What a push does to every byte. -/
theorem State.byteAt_push16 (s : State) (v b : Word) :
    (s.push16 v).byteAt b =
      if b = s.phys s.ss (s.reg16 .sp - 2#16) + 1#16 then hi8 v
      else if b = s.phys s.ss (s.reg16 .sp - 2#16) then lo8 v else s.byteAt b :=
  State.byteAt_setWord (s.setReg16 .sp (s.reg16 .sp - 2#16)) _ v b

theorem frame_push16 (s : State) (v : Word) :
    Frame s (s.push16 v) [.sp] (wordSpan (s.phys s.ss (s.reg16 .sp - 2#16))) :=
  (frame_setReg16 s _ _).trans (frame_setWord _ _ _)

/-- The word at the top of the stack after a push is the word pushed. -/
@[simp] theorem State.stackTop_push16 (s : State) (v : Word) : (s.push16 v).stackTop = v :=
  State.wordAt_setWord_same _ _ _

theorem frame_dropWord (s : State) : Frame s s.dropWord [.sp] [] := frame_setReg16 s _ _

@[simp] theorem State.dropWord_sp (s : State) : s.dropWord.reg16 .sp = s.reg16 .sp + 2#16 := rfl

theorem State.reg16_dropWord_ne (s : State) {q : Reg16} (h : q ≠ .sp) : s.dropWord.reg16 q = s.reg16 q :=
  State.reg16_setReg16_ne s _ h

/-! ### Interrupt entry and return (60_exceptions.md R363, R364) -/

theorem State.enterInterrupt_sp (s : State) (r c o : Word) :
    (s.enterInterrupt r c o).reg16 .sp = s.reg16 .sp - 2#16 - 2#16 - 2#16 := rfl

theorem State.reg16_enterInterrupt_ne (s : State) {q : Reg16} (r c o : Word) (h : q ≠ .sp) :
    (s.enterInterrupt r c o).reg16 q = s.reg16 q := by
  have e : (s.enterInterrupt r c o).reg16 q = (((s.push16 s.flags.image).push16 s.cs).push16 r).reg16 q := rfl
  rw [e, State.reg16_push16_ne _ _ h, State.reg16_push16_ne _ _ h, State.reg16_push16_ne _ _ h]

@[simp] theorem State.enterInterrupt_cs (s : State) (r c o : Word) : (s.enterInterrupt r c o).cs = c := rfl

@[simp] theorem State.enterInterrupt_ip (s : State) (r c o : Word) : (s.enterInterrupt r c o).ip = o := rfl

@[simp] theorem State.enterInterrupt_ss (s : State) (r c o : Word) : (s.enterInterrupt r c o).ss = s.ss := rfl

@[simp] theorem State.enterInterrupt_cfg (s : State) (r c o : Word) : (s.enterInterrupt r c o).cfg = s.cfg := rfl

@[simp] theorem State.enterInterrupt_events (s : State) (r c o : Word) :
    (s.enterInterrupt r c o).events = s.events := rfl

@[simp] theorem State.enterInterrupt_flags (s : State) (r c o : Word) :
    (s.enterInterrupt r c o).flags = { s.flags with idf := true } := rfl

/-- Every byte after an interrupt entry is that after the three pushes. -/
theorem State.byteAt_enterInterrupt (s : State) (r c o b : Word) :
    (s.enterInterrupt r c o).byteAt b = (((s.push16 s.flags.image).push16 s.cs).push16 r).byteAt b := rfl

@[simp] theorem State.returnFromInterrupt_flags (s : State) :
    s.returnFromInterrupt.flags = Flags.ofImage s.dropWord.dropWord.stackTop := rfl

@[simp] theorem State.returnFromInterrupt_ip (s : State) : s.returnFromInterrupt.ip = s.stackTop := rfl

@[simp] theorem State.returnFromInterrupt_cs (s : State) : s.returnFromInterrupt.cs = s.dropWord.stackTop := rfl

theorem State.returnFromInterrupt_sp (s : State) :
    s.returnFromInterrupt.reg16 .sp = s.reg16 .sp + 2#16 + 2#16 + 2#16 := rfl

theorem State.reg16_returnFromInterrupt_ne (s : State) {q : Reg16} (h : q ≠ .sp) :
    s.returnFromInterrupt.reg16 q = s.reg16 q := by
  have e : s.returnFromInterrupt.reg16 q = s.dropWord.dropWord.dropWord.reg16 q := rfl
  rw [e, State.reg16_dropWord_ne _ h, State.reg16_dropWord_ne _ h, State.reg16_dropWord_ne _ h]

@[simp] theorem State.byteAt_returnFromInterrupt (s : State) (b : Word) :
    s.returnFromInterrupt.byteAt b = s.byteAt b := rfl

/-- The flags image and back (10_state.md R33, R34). -/
theorem Flags.ofImage_image (f : Flags) : Flags.ofImage f.image = f := by
  obtain ⟨c, z, g, o, d⟩ := f
  revert c z g o d
  decide

end Sys2Proof.Machine
end

