-- ==== Sys2Proof/Laws/Alu.lean ====
section
/-! SUPPORT. The ALU functions by signed ranges (spec/41_add_sub_mul_div.md R180, R181, spec/42_inc_dec.md R230), the
sign extension by the signed reading, the length of a form with a ModRM byte. -/

namespace Sys2Proof.Machine

/-- OF of a sum says that the signed sum is out of range. -/
theorem aluAdd_of {n : Nat} (a b : BitVec n) :
    (aluAdd a b).of = true ↔ a.toInt + b.toInt < -2 ^ (n - 1) ∨ 2 ^ (n - 1) ≤ a.toInt + b.toInt := by
  have h := BitVec.saddOverflow_eq (x := a) (y := b)
  simp only [BitVec.saddOverflow] at h
  have e : (aluAdd a b).of = (a.msb == b.msb && !(a + b).msb == a.msb) := by
    simp only [aluAdd]
    cases a.msb <;> cases b.msb <;> cases (a + b).msb <;> rfl
  rw [e, ← h]
  simp
  tauto

/-- OF of a difference says that the signed difference is out of range. -/
theorem aluSub_of {n : Nat} (a b : BitVec n) :
    (aluSub a b).of = true ↔ a.toInt - b.toInt < -2 ^ (n - 1) ∨ 2 ^ (n - 1) ≤ a.toInt - b.toInt := by
  have h := BitVec.ssubOverflow_eq (x := a) (y := b)
  simp only [BitVec.ssubOverflow] at h
  have e : (aluSub a b).of = (!a.msb && b.msb && (a - b).msb || a.msb && !b.msb && !(a - b).msb) := by
    simp only [aluSub]
    cases a.msb <;> cases b.msb <;> cases (a - b).msb <;> rfl
  rw [e, ← h]
  simp
  tauto

theorem sext16_eq_ofInt (b : Byte) : sext16 b = BitVec.ofInt 16 b.toInt := by
  revert b; decide

theorem modRMBytes8_length (opcode : Byte) (reg : BitVec 3) (rm : RM8) (imm : List Byte) :
    (modRMBytes8 opcode reg rm imm).length = 2 + rm.dispLen + imm.length := by
  simp [modRMBytes8, RM.dispBytes_length]; omega

theorem modRMBytes16_length (opcode : Byte) (reg : BitVec 3) (rm : RM16) (imm : List Byte) :
    (modRMBytes16 opcode reg rm imm).length = 2 + rm.dispLen + imm.length := by
  simp [modRMBytes16, RM.dispBytes_length]; omega

end Sys2Proof.Machine
end

