-- ==== Sys2Proof/Laws/Events.lean ====
section
/-! SUPPORT. The decision trees of `EVENT_OF` (spec/45_int_iret.md R322): every function from the vector and the
register file to an optional event is some tree, and a tree gives the same event in two register files that differ
only in a segment register it does not ask about. -/

namespace Sys2Proof.Machine

@[simp] theorem State.registerFile_seg (s : State) (g : Seg) : s.registerFile.seg g = s.seg g := by
  cases g <;> rfl

/-- The event of an `INT` depends on the register file and the parameters alone. -/
theorem State.eventOf_congr {s t : State} (hf : t.registerFile = s.registerFile) (hc : t.cfg = s.cfg) (n : Byte) :
    t.eventOf n = s.eventOf n := by
  rw [State.eventOf, State.eventOf, hf, hc]

/-- A tree that does not ask about ES gives the same event whatever ES holds. -/
theorem chooseEvent_es {c : EventChoice} (h : eventAsksSeg .es c = false) (vector : Byte) (f : RegisterFile) (v : Word) :
    chooseEvent vector { f with es := v } c = chooseEvent vector f c := by
  induction c with
  | nothing => rfl
  | print _ => rfl
  | printReg _ => rfl
  | test q yes no ihy ihn =>
    simp only [eventAsksSeg, Bool.or_eq_false_iff] at h
    have ask : eventTestHolds vector { f with es := v } q = eventTestHolds vector f q := by
      rcases q with _ | _ | _ | ⟨g, _⟩ | _ | _ | _ | _ | _ | _ <;> try rfl
      cases g <;> first | rfl | simp [questionAsksSeg] at h
    simp only [chooseEvent, ask, ihy h.1.2, ihn h.2]

/-- Where a question tells the values of a reading apart, a tree may go on by the value read. -/
theorem eventChoice_by_value {α : Type} [Fintype α] (question : α → EventTest) (read : Byte → RegisterFile → α)
    (asks : ∀ vector f a, eventTestHolds vector f (question a) = true ↔ read vector f = a) (next : α → EventChoice) :
    ∃ c, ∀ vector f, chooseEvent vector f c = chooseEvent vector f (next (read vector f)) := by
  have list : ∀ l : List α, ∃ c, ∀ vector f, read vector f ∈ l →
      chooseEvent vector f c = chooseEvent vector f (next (read vector f)) := by
    intro l
    induction l with
    | nil => exact ⟨.nothing, fun _ _ h => absurd h List.not_mem_nil⟩
    | cons a l ih =>
      obtain ⟨c, hc⟩ := ih
      refine ⟨.test (question a) (next a) c, fun vector f h => ?_⟩
      simp only [chooseEvent]
      split
      · rename_i hq
        rw [(asks vector f a).mp hq]
      · rename_i hq
        exact hc vector f ((List.mem_cons.mp h).resolve_left fun e => hq ((asks vector f a).mpr e))
  obtain ⟨c, hc⟩ := list Finset.univ.toList
  exact ⟨c, fun vector f => hc vector f (by simp)⟩

/-- Every function from the vector and the register file to an optional event is a decision tree: no `EVENT_OF` is
left out (00_scope.md R4). -/
theorem eventChoice_complete (event : Byte → RegisterFile → Option Event) :
    ∃ c, ∀ vector f, chooseEvent vector f c = event vector f := by
  have leaf : ∀ e : Option Event, ∃ c, ∀ vector f, chooseEvent vector f c = e := by
    rintro (_ | ⟨⟨ch⟩⟩)
    · exact ⟨.nothing, fun _ _ => rfl⟩
    · exact ⟨.print ch, fun _ _ => rfl⟩
  have flag : ∀ (q : EventTest) (next : Bool → EventChoice), ∃ c, ∀ vector f,
      chooseEvent vector f c = chooseEvent vector f (next (eventTestHolds vector f q)) := fun q next =>
    ⟨.test q (next true) (next false), fun vector f => by
      cases h : eventTestHolds vector f q <;> simp [chooseEvent, h]⟩
  have byVector := eventChoice_by_value .vectorIs (fun v _ => v) (fun _ _ _ => by simp [eventTestHolds])
  have byReg := fun r => eventChoice_by_value (.reg16Is r) (fun _ f => f.regs.get r)
    (fun _ _ _ => by simp [eventTestHolds])
  have bySeg := fun g => eventChoice_by_value (.segIs g) (fun _ f => f.seg g) (fun _ _ _ => by simp [eventTestHolds])
  have byIp := eventChoice_by_value .ipIs (fun _ f => f.ip) (fun _ _ _ => by simp [eventTestHolds])
  choose last hlast using leaf
  choose tf htf using flag
  choose tv htv using byVector
  choose tr htr using byReg
  choose tg htg using bySeg
  choose ti hti using byIp
  refine ⟨tv fun v => tr .ax fun ax => tr .cx fun cx => tr .dx fun dx => tr .bx fun bx => tr .sp fun sp =>
    tr .bp fun bp => tr .si fun si => tr .di fun di => tg .cs fun cs => tg .ds fun ds => tg .es fun es =>
    tg .ss fun ss => ti fun ip => tf .cfSet fun c => tf .zfSet fun z => tf .sfSet fun g => tf .ofSet fun o =>
    tf .idfSet fun i => last (event v ⟨⟨ax, cx, dx, bx, sp, bp, si, di⟩, cs, ds, es, ss, ip, ⟨c, z, g, o, i⟩⟩), ?_⟩
  intro vector f
  rw [htv, htr, htr, htr, htr, htr, htr, htr, htr, htg, htg, htg, htg, hti, htf, htf, htf, htf, htf, hlast]
  rfl

end Sys2Proof.Machine
end

