-- ==== Sys2Proof/Laws/Interrupts.lean ====
section
/-! SUPPORT. What the interrupt entry leaves in memory, byte by byte and word by word, and what a return reads back
(spec/60_exceptions.md R363, R364). -/

namespace Sys2Proof.Machine

theorem sub_two_three_times (x : Word) : x - 2#16 - 2#16 - 2#16 = x - 6#16 := by bv_omega

theorem add_two_twice (x : Word) : x + 2#16 + 2#16 = x + 4#16 := by bv_omega

/-- Every byte after an interrupt entry: the return offset, CS and the flags image from the new SP up. -/
theorem State.byteAt_enterInterrupt_frame (s : State) (r c o b : Word) :
    (s.enterInterrupt r c o).byteAt b =
      let base := s.phys s.ss (s.reg16 .sp - 6#16)
      if b = base + 1#16 then hi8 r else if b = base then lo8 r
      else if b = base + 3#16 then hi8 s.cs else if b = base + 2#16 then lo8 s.cs
      else if b = base + 5#16 then hi8 s.flags.image else if b = base + 4#16 then lo8 s.flags.image
      else s.byteAt b := by
  extract_lets base
  rw [State.byteAt_enterInterrupt, State.byteAt_push16, State.byteAt_push16, State.byteAt_push16]
  have e1 : ((s.push16 s.flags.image).push16 s.cs).phys ((s.push16 s.flags.image).push16 s.cs).ss
      (((s.push16 s.flags.image).push16 s.cs).reg16 .sp - 2#16) = base := by
    show s.phys s.ss (s.reg16 .sp - 2#16 - 2#16 - 2#16) = _
    rw [sub_two_three_times]
  have e2 : (s.push16 s.flags.image).phys (s.push16 s.flags.image).ss
      ((s.push16 s.flags.image).reg16 .sp - 2#16) = base + 2#16 := by
    show s.phys s.ss (s.reg16 .sp - 2#16 - 2#16) = _
    rw [← State.phys_add]; congr 1; bv_omega
  have e3 : s.phys s.ss (s.reg16 .sp - 2#16) = base + 4#16 := by
    rw [← State.phys_add]; congr 1; bv_omega
  have a3 : base + 2#16 + 1#16 = base + 3#16 := by bv_omega
  have a5 : base + 4#16 + 1#16 = base + 5#16 := by bv_omega
  rw [e1, e2, e3, a3, a5]

theorem mem_interruptFrame (s : State) (a : Word) :
    a ∈ interruptFrame s ↔
      let base := s.phys s.ss (s.reg16 .sp - 6#16)
      a = base ∨ a = base + 1#16 ∨ a = base + 2#16 ∨ a = base + 3#16 ∨ a = base + 4#16 ∨ a = base + 5#16 := by
  simp [interruptFrame, List.range_succ, List.range_zero]

/-- An interrupt entry leaves every byte outside its frame alone. -/
theorem State.byteAt_enterInterrupt_of_not_mem (s : State) (r c o : Word) {a : Word} (h : a ∉ interruptFrame s) :
    (s.enterInterrupt r c o).byteAt a = s.byteAt a := by
  rw [mem_interruptFrame] at h
  simp only [not_or] at h
  rw [State.byteAt_enterInterrupt_frame]
  simp only [h, if_false]

/-- The three words of the frame. -/
theorem State.wordAt_enterInterrupt (s : State) (r c o : Word) :
    (s.enterInterrupt r c o).wordAt (s.phys s.ss (s.reg16 .sp - 6#16)) = r ∧
    (s.enterInterrupt r c o).wordAt (s.phys s.ss (s.reg16 .sp - 6#16) + 2#16) = s.cs ∧
    (s.enterInterrupt r c o).wordAt (s.phys s.ss (s.reg16 .sp - 6#16) + 4#16) = s.flags.image := by
  have key := s.byteAt_enterInterrupt_frame r c o
  revert key
  generalize s.phys s.ss (s.reg16 .sp - 6#16) = base
  intro key
  have ne : ∀ i j : Nat, i < 6 → j < 6 → i ≠ j → base + BitVec.ofNat 16 i ≠ base + BitVec.ofNat 16 j := by
    intro i j hi hj hn h
    have h' := congrArg BitVec.toNat ((BitVec.add_right_inj _).mp h)
    simp at h'
    omega
  have ne0 : ∀ i : Nat, i < 6 → i ≠ 0 → base + BitVec.ofNat 16 i ≠ base := by
    intro i hi h0 h
    exact ne i 0 hi (by omega) h0 (by simpa using h)
  have a3 : base + 2#16 + 1#16 = base + 3#16 := by bv_omega
  have a5 : base + 4#16 + 1#16 = base + 5#16 := by bv_omega
  have n10 : base ≠ base + 1#16 := (ne0 1 (by omega) (by omega)).symm
  have n20 : base + 2#16 ≠ base := ne0 2 (by omega) (by omega)
  have n30 : base + 3#16 ≠ base := ne0 3 (by omega) (by omega)
  have n40 : base + 4#16 ≠ base := ne0 4 (by omega) (by omega)
  have n50 : base + 5#16 ≠ base := ne0 5 (by omega) (by omega)
  have n21 : base + 2#16 ≠ base + 1#16 := ne 2 1 (by omega) (by omega) (by omega)
  have n31 : base + 3#16 ≠ base + 1#16 := ne 3 1 (by omega) (by omega) (by omega)
  have n41 : base + 4#16 ≠ base + 1#16 := ne 4 1 (by omega) (by omega) (by omega)
  have n51 : base + 5#16 ≠ base + 1#16 := ne 5 1 (by omega) (by omega) (by omega)
  have n23 : base + 2#16 ≠ base + 3#16 := ne 2 3 (by omega) (by omega) (by omega)
  have n43 : base + 4#16 ≠ base + 3#16 := ne 4 3 (by omega) (by omega) (by omega)
  have n53 : base + 5#16 ≠ base + 3#16 := ne 5 3 (by omega) (by omega) (by omega)
  have n42 : base + 4#16 ≠ base + 2#16 := ne 4 2 (by omega) (by omega) (by omega)
  have n52 : base + 5#16 ≠ base + 2#16 := ne 5 2 (by omega) (by omega) (by omega)
  have n45 : base + 4#16 ≠ base + 5#16 := ne 4 5 (by omega) (by omega) (by omega)
  simp only [State.wordAt, a3, a5, key, n10, n20, n30, n40, n50, n21, n31, n41, n51, n23, n43, n53, n42, n52, n45,
    if_true, if_false, mkWord_hi8_lo8, and_self]

/-- A return in a state that holds the frame of an entry from `s`, at the same SP, restores CS, the flags and every
register of `s`, and resumes at the return offset. -/
theorem State.returnFromInterrupt_of_frame {s t : State} {r c o : Word} (hsp : t.reg16 .sp = s.reg16 .sp - 6#16)
    (hss : t.ss = s.ss) (hcfg : t.cfg = s.cfg) (hmem : ∀ a, t.byteAt a = (s.enterInterrupt r c o).byteAt a)
    (hreg : ∀ q, q ≠ .sp → t.reg16 q = s.reg16 q) :
    t.returnFromInterrupt.ip = r ∧ t.returnFromInterrupt.cs = s.cs ∧ t.returnFromInterrupt.flags = s.flags ∧
      ∀ q, t.returnFromInterrupt.reg16 q = s.reg16 q := by
  have hw : ∀ a, t.wordAt a = (s.enterInterrupt r c o).wordAt a := fun a => State.wordAt_congr (hmem _) (hmem _)
  have hp : ∀ g a, t.phys g a = s.phys g a := fun g a => by simp [State.phys, hcfg]
  obtain ⟨h1, h2, h3⟩ := s.wordAt_enterInterrupt r c o
  refine ⟨?_, ?_, ?_, ?_⟩
  · show t.wordAt (t.phys t.ss (t.reg16 .sp)) = _
    rw [hw, hp, hss, hsp, h1]
  · show t.wordAt (t.phys t.ss (t.reg16 .sp + 2#16)) = _
    rw [hw, hp, hss, hsp, State.phys_add, h2]
  · show Flags.ofImage (t.wordAt (t.phys t.ss (t.reg16 .sp + 2#16 + 2#16))) = _
    rw [hw, hp, hss, hsp, add_two_twice, State.phys_add, h3, Flags.ofImage_image]
  · intro q
    by_cases h : q = .sp
    · subst h
      rw [State.returnFromInterrupt_sp, hsp]
      bv_omega
    · rw [State.reg16_returnFromInterrupt_ne _ h, hreg q h]

end Sys2Proof.Machine
end

