-- ==== Sys2Proof/Laws/PerInstr.lean ====
section
/-! SUPPORT. A statement made for each instruction as syntax: its encoding has the length its format gives, which
is 1 to 6 bytes (spec/30_encoding.md R100, R102, R112). -/

namespace Sys2Proof.Laws.EncodedLength

/-- The encoding of `i` is `i.length` bytes long, and that is 1 to 6 (30_encoding.md R100). -/
def Statement (i : Instr) : Prop :=
  ∀ c : Config, (encode c i).length = i.length ∧ 1 ≤ i.length ∧ i.length ≤ 6

theorem dispLen_le {ρ : Type} (rm : RM ρ) : rm.dispLen ≤ 2 := by
  rcases rm with r | (o | b | ⟨b, d⟩ | ⟨b, d⟩) <;> simp [RM.dispLen]

theorem plain (opcode : Byte) (imm : List Byte) (n : Nat) (h : imm.length + 1 = n) (h6 : n ≤ 6) (c : Config)
    (i : Instr) (hp : i.parts c = plainParts opcode imm) (hl : i.length = n) :
    (encode c i).length = i.length ∧ 1 ≤ i.length ∧ i.length ≤ 6 := by
  rw [encode, hp, hl]
  simp [plainParts]
  omega

theorem modRM {ρ : Type} (opcode m : Byte) (rm : RM ρ) (imm : List Byte) (h2 : imm.length ≤ 2) (c : Config)
    (i : Instr) (hp : i.parts c = ⟨opcode, some m, rm.dispBytes, imm⟩)
    (hl : i.length = 2 + imm.length + rm.dispLen) :
    (encode c i).length = i.length ∧ 1 ≤ i.length ∧ i.length ≤ 6 := by
  have hd := dispLen_le rm
  rw [encode, hp, hl]
  simp [RM.dispBytes_length]
  omega

theorem movRm8R8 (dst : RM8) (src : Reg8) : Statement (.movRm8R8 dst src) :=
  fun c => modRM _ _ dst _ (Nat.le_of_ble_eq_true rfl) c _ rfl rfl

theorem movRm16R16 (dst : RM16) (src : Reg16) : Statement (.movRm16R16 dst src) :=
  fun c => modRM _ _ dst _ (Nat.le_of_ble_eq_true rfl) c _ rfl rfl

theorem movR8Rm8 (dst : Reg8) (src : RM8) : Statement (.movR8Rm8 dst src) :=
  fun c => modRM _ _ src _ (Nat.le_of_ble_eq_true rfl) c _ rfl rfl

theorem movR16Rm16 (dst : Reg16) (src : RM16) : Statement (.movR16Rm16 dst src) :=
  fun c => modRM _ _ src _ (Nat.le_of_ble_eq_true rfl) c _ rfl rfl

theorem movAlOff (off : Word) : Statement (.movAlOff off) :=
  fun c => plain _ _ _ rfl (Nat.le_of_ble_eq_true rfl) c _ rfl rfl

theorem movAxOff (off : Word) : Statement (.movAxOff off) :=
  fun c => plain _ _ _ rfl (Nat.le_of_ble_eq_true rfl) c _ rfl rfl

theorem movOffAl (off : Word) : Statement (.movOffAl off) :=
  fun c => plain _ _ _ rfl (Nat.le_of_ble_eq_true rfl) c _ rfl rfl

theorem movOffAx (off : Word) : Statement (.movOffAx off) :=
  fun c => plain _ _ _ rfl (Nat.le_of_ble_eq_true rfl) c _ rfl rfl

theorem movR8Imm8 (dst : Reg8) (imm : Byte) : Statement (.movR8Imm8 dst imm) :=
  fun c => plain _ _ _ rfl (Nat.le_of_ble_eq_true rfl) c _ rfl rfl

theorem movR16Imm16 (dst : Reg16) (imm : Word) : Statement (.movR16Imm16 dst imm) :=
  fun c => plain _ _ _ rfl (Nat.le_of_ble_eq_true rfl) c _ rfl rfl

theorem movRm8Imm8 (dst : RM8) (imm : Byte) : Statement (.movRm8Imm8 dst imm) :=
  fun c => modRM _ _ dst _ (Nat.le_of_ble_eq_true rfl) c _ rfl rfl

theorem movRm16Imm16 (dst : RM16) (imm : Word) : Statement (.movRm16Imm16 dst imm) :=
  fun c => modRM _ _ dst _ (Nat.le_of_ble_eq_true rfl) c _ rfl rfl

theorem addRm8R8 (dst : RM8) (src : Reg8) : Statement (.addRm8R8 dst src) :=
  fun c => modRM _ _ dst _ (Nat.le_of_ble_eq_true rfl) c _ rfl rfl

theorem addRm16R16 (dst : RM16) (src : Reg16) : Statement (.addRm16R16 dst src) :=
  fun c => modRM _ _ dst _ (Nat.le_of_ble_eq_true rfl) c _ rfl rfl

theorem addR8Rm8 (dst : Reg8) (src : RM8) : Statement (.addR8Rm8 dst src) :=
  fun c => modRM _ _ src _ (Nat.le_of_ble_eq_true rfl) c _ rfl rfl

theorem addR16Rm16 (dst : Reg16) (src : RM16) : Statement (.addR16Rm16 dst src) :=
  fun c => modRM _ _ src _ (Nat.le_of_ble_eq_true rfl) c _ rfl rfl

theorem addAlImm8 (imm : Byte) : Statement (.addAlImm8 imm) :=
  fun c => plain _ _ _ rfl (Nat.le_of_ble_eq_true rfl) c _ rfl rfl

theorem addAxImm16 (imm : Word) : Statement (.addAxImm16 imm) :=
  fun c => plain _ _ _ rfl (Nat.le_of_ble_eq_true rfl) c _ rfl rfl

theorem addRm8Imm8 (dst : RM8) (imm : Byte) : Statement (.addRm8Imm8 dst imm) :=
  fun c => modRM _ _ dst _ (Nat.le_of_ble_eq_true rfl) c _ rfl rfl

theorem addRm16Imm16 (dst : RM16) (imm : Word) : Statement (.addRm16Imm16 dst imm) :=
  fun c => modRM _ _ dst _ (Nat.le_of_ble_eq_true rfl) c _ rfl rfl

theorem addRm16Imm8 (dst : RM16) (imm : Byte) : Statement (.addRm16Imm8 dst imm) :=
  fun c => modRM _ _ dst _ (Nat.le_of_ble_eq_true rfl) c _ rfl rfl

theorem subRm8R8 (dst : RM8) (src : Reg8) : Statement (.subRm8R8 dst src) :=
  fun c => modRM _ _ dst _ (Nat.le_of_ble_eq_true rfl) c _ rfl rfl

theorem subRm16R16 (dst : RM16) (src : Reg16) : Statement (.subRm16R16 dst src) :=
  fun c => modRM _ _ dst _ (Nat.le_of_ble_eq_true rfl) c _ rfl rfl

theorem subR8Rm8 (dst : Reg8) (src : RM8) : Statement (.subR8Rm8 dst src) :=
  fun c => modRM _ _ src _ (Nat.le_of_ble_eq_true rfl) c _ rfl rfl

theorem subR16Rm16 (dst : Reg16) (src : RM16) : Statement (.subR16Rm16 dst src) :=
  fun c => modRM _ _ src _ (Nat.le_of_ble_eq_true rfl) c _ rfl rfl

theorem subAlImm8 (imm : Byte) : Statement (.subAlImm8 imm) :=
  fun c => plain _ _ _ rfl (Nat.le_of_ble_eq_true rfl) c _ rfl rfl

theorem subAxImm16 (imm : Word) : Statement (.subAxImm16 imm) :=
  fun c => plain _ _ _ rfl (Nat.le_of_ble_eq_true rfl) c _ rfl rfl

theorem subRm8Imm8 (dst : RM8) (imm : Byte) : Statement (.subRm8Imm8 dst imm) :=
  fun c => modRM _ _ dst _ (Nat.le_of_ble_eq_true rfl) c _ rfl rfl

theorem subRm16Imm16 (dst : RM16) (imm : Word) : Statement (.subRm16Imm16 dst imm) :=
  fun c => modRM _ _ dst _ (Nat.le_of_ble_eq_true rfl) c _ rfl rfl

theorem subRm16Imm8 (dst : RM16) (imm : Byte) : Statement (.subRm16Imm8 dst imm) :=
  fun c => modRM _ _ dst _ (Nat.le_of_ble_eq_true rfl) c _ rfl rfl

theorem mulRm8 (src : RM8) : Statement (.mulRm8 src) :=
  fun c => modRM _ _ src _ (Nat.le_of_ble_eq_true rfl) c _ rfl rfl

theorem mulRm16 (src : RM16) : Statement (.mulRm16 src) :=
  fun c => modRM _ _ src _ (Nat.le_of_ble_eq_true rfl) c _ rfl rfl

theorem divRm8 (src : RM8) : Statement (.divRm8 src) :=
  fun c => modRM _ _ src _ (Nat.le_of_ble_eq_true rfl) c _ rfl rfl

theorem divRm16 (src : RM16) : Statement (.divRm16 src) :=
  fun c => modRM _ _ src _ (Nat.le_of_ble_eq_true rfl) c _ rfl rfl

theorem idivRm8 (src : RM8) : Statement (.idivRm8 src) :=
  fun c => modRM _ _ src _ (Nat.le_of_ble_eq_true rfl) c _ rfl rfl

theorem idivRm16 (src : RM16) : Statement (.idivRm16 src) :=
  fun c => modRM _ _ src _ (Nat.le_of_ble_eq_true rfl) c _ rfl rfl

theorem incR16 (dst : Reg16) : Statement (.incR16 dst) :=
  fun c => plain _ _ _ rfl (Nat.le_of_ble_eq_true rfl) c _ rfl rfl

theorem decR16 (dst : Reg16) : Statement (.decR16 dst) :=
  fun c => plain _ _ _ rfl (Nat.le_of_ble_eq_true rfl) c _ rfl rfl

theorem incRm8 (dst : RM8) : Statement (.incRm8 dst) :=
  fun c => modRM _ _ dst _ (Nat.le_of_ble_eq_true rfl) c _ rfl rfl

theorem decRm8 (dst : RM8) : Statement (.decRm8 dst) :=
  fun c => modRM _ _ dst _ (Nat.le_of_ble_eq_true rfl) c _ rfl rfl

theorem incRm16 (dst : RM16) : Statement (.incRm16 dst) :=
  fun c => modRM _ _ dst _ (Nat.le_of_ble_eq_true rfl) c _ rfl rfl

theorem decRm16 (dst : RM16) : Statement (.decRm16 dst) :=
  fun c => modRM _ _ dst _ (Nat.le_of_ble_eq_true rfl) c _ rfl rfl

theorem jmpRel8 (rel : Byte) : Statement (.jmpRel8 rel) :=
  fun c => plain _ _ _ rfl (Nat.le_of_ble_eq_true rfl) c _ rfl rfl

theorem jmpRel16 (rel : Word) : Statement (.jmpRel16 rel) :=
  fun c => plain _ _ _ rfl (Nat.le_of_ble_eq_true rfl) c _ rfl rfl

theorem jo (rel : Byte) : Statement (.jo rel) :=
  fun c => plain _ _ _ rfl (Nat.le_of_ble_eq_true rfl) c _ rfl rfl

theorem jno (rel : Byte) : Statement (.jno rel) :=
  fun c => plain _ _ _ rfl (Nat.le_of_ble_eq_true rfl) c _ rfl rfl

theorem jc (rel : Byte) : Statement (.jc rel) :=
  fun c => plain _ _ _ rfl (Nat.le_of_ble_eq_true rfl) c _ rfl rfl

theorem jnc (rel : Byte) : Statement (.jnc rel) :=
  fun c => plain _ _ _ rfl (Nat.le_of_ble_eq_true rfl) c _ rfl rfl

theorem jz (rel : Byte) : Statement (.jz rel) :=
  fun c => plain _ _ _ rfl (Nat.le_of_ble_eq_true rfl) c _ rfl rfl

theorem jnz (rel : Byte) : Statement (.jnz rel) :=
  fun c => plain _ _ _ rfl (Nat.le_of_ble_eq_true rfl) c _ rfl rfl

theorem jna (rel : Byte) : Statement (.jna rel) :=
  fun c => plain _ _ _ rfl (Nat.le_of_ble_eq_true rfl) c _ rfl rfl

theorem ja (rel : Byte) : Statement (.ja rel) :=
  fun c => plain _ _ _ rfl (Nat.le_of_ble_eq_true rfl) c _ rfl rfl

theorem js (rel : Byte) : Statement (.js rel) :=
  fun c => plain _ _ _ rfl (Nat.le_of_ble_eq_true rfl) c _ rfl rfl

theorem jns (rel : Byte) : Statement (.jns rel) :=
  fun c => plain _ _ _ rfl (Nat.le_of_ble_eq_true rfl) c _ rfl rfl

theorem jl (rel : Byte) : Statement (.jl rel) :=
  fun c => plain _ _ _ rfl (Nat.le_of_ble_eq_true rfl) c _ rfl rfl

theorem jge (rel : Byte) : Statement (.jge rel) :=
  fun c => plain _ _ _ rfl (Nat.le_of_ble_eq_true rfl) c _ rfl rfl

theorem jle (rel : Byte) : Statement (.jle rel) :=
  fun c => plain _ _ _ rfl (Nat.le_of_ble_eq_true rfl) c _ rfl rfl

theorem jg (rel : Byte) : Statement (.jg rel) :=
  fun c => plain _ _ _ rfl (Nat.le_of_ble_eq_true rfl) c _ rfl rfl

theorem loop (rel : Byte) : Statement (.loop rel) :=
  fun c => plain _ _ _ rfl (Nat.le_of_ble_eq_true rfl) c _ rfl rfl

theorem pushR16 (src : Reg16) : Statement (.pushR16 src) :=
  fun c => plain _ _ _ rfl (Nat.le_of_ble_eq_true rfl) c _ rfl rfl

theorem popR16 (dst : Reg16) : Statement (.popR16 dst) :=
  fun c => plain _ _ _ rfl (Nat.le_of_ble_eq_true rfl) c _ rfl rfl

theorem callRel16 (rel : Word) : Statement (.callRel16 rel) :=
  fun c => plain _ _ _ rfl (Nat.le_of_ble_eq_true rfl) c _ rfl rfl

theorem ret : Statement .ret :=
  fun c => plain _ _ _ rfl (Nat.le_of_ble_eq_true rfl) c _ rfl rfl

theorem int (vector : Byte) : Statement (.int vector) :=
  fun c => plain _ _ _ rfl (Nat.le_of_ble_eq_true rfl) c _ rfl rfl

theorem iret : Statement .iret :=
  fun c => plain _ _ _ rfl (Nat.le_of_ble_eq_true rfl) c _ rfl rfl

theorem nop : Statement .nop :=
  fun c => plain _ _ _ rfl (Nat.le_of_ble_eq_true rfl) c _ rfl rfl

end Sys2Proof.Laws.EncodedLength
end

