-- ==== Sys2Proof/Laws/Step.lean ====
section
/-! SUPPORT. What a step can do, said once: the inversion of `step`, and `Built`, the updates a next state is made
of. An invariant of every step is an induction over `Built` (spec/00_scope.md R6, spec/20_memory.md R67). -/

namespace Sys2Proof.Machine

/-- A step that answers a next state ran a decoded instruction to it. -/
theorem step_next_iff (s t : State) :
    step s = .next t ↔ ∃ i, s.decodeNext = .ok i ∧ exec i s = .next t := by
  unfold step
  cases h : s.decodeNext with
  | ok i => simp
  | error e => simp

/-- A step that fails was rejected by the decoder or by the instruction. -/
theorem step_fault_iff (s : State) (f : Fault) :
    step s = .fault f ↔
      (∃ e, s.decodeNext = .error e ∧ decodeFault s.ip e = f) ∨ ∃ i, s.decodeNext = .ok i ∧ exec i s = .fault f := by
  unfold step
  cases h : s.decodeNext with
  | ok i => simp
  | error e => simp

/-- The states reached from `s` by the updates the meanings are made of. -/
inductive Built (s : State) : State → Prop
  | start : Built s s
  | setReg16 {t : State} (r : Reg16) (v : Word) : Built s t → Built s (t.setReg16 r v)
  | setByte {t : State} (a : Word) (v : Byte) : Built s t → Built s (t.setByte a v)
  | setFlags {t : State} (f : Flags) : Built s t → Built s (t.setFlags f)
  | setMulFlags {t : State} (high : Bool) : Built s t → Built s (t.setMulFlags high)
  | setDivFlags {t : State} : Built s t → Built s t.setDivFlags
  | farJump {t : State} (c o : Word) : Built s t → Built s (t.farJump c o)
  | emit {t : State} (e : Option Event) : Built s t → Built s (t.emit e)

theorem Built.setReg8 {s t : State} (r : Reg8) (v : Byte) (h : Built s t) : Built s (t.setReg8 r v) :=
  h.setReg16 _ _

theorem Built.jump {s t : State} (target : Word) (h : Built s t) : Built s (t.jump target) :=
  h.farJump t.cs target

theorem Built.advance {s t : State} (n : Nat) (h : Built s t) : Built s (t.advance n) := h.jump _

theorem Built.setWord {s t : State} (a v : Word) (h : Built s t) : Built s (t.setWord a v) :=
  (h.setByte _ _).setByte _ _

theorem Built.writeRm8 {s t : State} (dst : RM8) (v : Byte) (h : Built s t) : Built s (t.writeRm8 dst v) := by
  cases dst
  · exact h.setReg8 _ _
  · exact h.setByte _ _

theorem Built.writeRm16 {s t : State} (dst : RM16) (v : Word) (h : Built s t) : Built s (t.writeRm16 dst v) := by
  cases dst
  · exact h.setReg16 _ _
  · exact h.setWord _ _

theorem Built.push16 {s t : State} (v : Word) (h : Built s t) : Built s (t.push16 v) :=
  (h.setReg16 _ _).setWord _ _

theorem Built.dropWord {s t : State} (h : Built s t) : Built s t.dropWord := h.setReg16 _ _

theorem Built.enterInterrupt {s t : State} (r c o : Word) (h : Built s t) : Built s (t.enterInterrupt r c o) :=
  ((((h.push16 _).push16 _).push16 _).setFlags _).farJump _ _

theorem Built.returnFromInterrupt {s t : State} (h : Built s t) : Built s t.returnFromInterrupt :=
  ((h.dropWord.dropWord.dropWord).farJump _ _).setFlags _

theorem Built.condJump {s t u : State} {b : Bool} {n : Nat} {rel : Byte} (h : Built s t)
    (hu : condJump b n rel t = .next u) : Built s u := by
  simp only [Machine.condJump, Host.Outcome.next.injEq] at hu
  subst hu
  split
  · exact h.jump _
  · exact h.advance _

theorem Built.finishDiv8 {s t : State} {op : Byte} {n : Nat} {o : Option (Byte × Byte)}
    (h : finishDiv8 op n o s = .next t) : Built s t := by
  rcases o with _ | ⟨q, r⟩
  · simp [Machine.finishDiv8, divideError] at h
  · simp only [Machine.finishDiv8, Host.Outcome.next.injEq] at h
    subst h
    exact (((Built.start.setReg8 _ _).setReg8 _ _).setDivFlags).advance _

theorem Built.finishDiv16 {s t : State} {op : Byte} {n : Nat} {o : Option (Word × Word)}
    (h : finishDiv16 op n o s = .next t) : Built s t := by
  rcases o with _ | ⟨q, r⟩
  · simp [Machine.finishDiv16, divideError] at h
  · simp only [Machine.finishDiv16, Host.Outcome.next.injEq] at h
    subst h
    exact (((Built.start.setReg16 _ _).setReg16 _ _).setDivFlags).advance _

/-- The next state of any instruction is built by those updates. -/
theorem exec_built {i : Instr} {s t : State} (h : exec i s = .next t) : Built s t := by
  cases i
  case divRm8 => exact Built.finishDiv8 h
  case idivRm8 => exact Built.finishDiv8 h
  case divRm16 => exact Built.finishDiv16 h
  case idivRm16 => exact Built.finishDiv16 h
  case jo => exact Built.start.condJump h
  case jno => exact Built.start.condJump h
  case jc => exact Built.start.condJump h
  case jnc => exact Built.start.condJump h
  case jz => exact Built.start.condJump h
  case jnz => exact Built.start.condJump h
  case jna => exact Built.start.condJump h
  case ja => exact Built.start.condJump h
  case js => exact Built.start.condJump h
  case jns => exact Built.start.condJump h
  case jl => exact Built.start.condJump h
  case jge => exact Built.start.condJump h
  case jle => exact Built.start.condJump h
  case jg => exact Built.start.condJump h
  case loop => exact (Built.start.setReg16 _ _).condJump h
  case pushR16 src =>
    simp only [exec, execPushR16] at h
    split at h
    · cases h
    · cases h
      exact (Built.start.push16 _).advance _
  case int vector =>
    simp only [exec, execInt] at h
    split at h
    · cases h
    · cases h
      exact (Built.start.enterInterrupt _ _ _).emit _
  all_goals cases h
  case popR16 => exact (Built.start.dropWord.setReg16 _ _).advance _
  case callRel16 => exact (Built.start.push16 _).jump _
  case ret => exact Built.start.dropWord.jump _
  case iret => exact Built.start.returnFromInterrupt
  case nop => exact Built.start.advance _
  case jmpRel8 => exact Built.start.jump _
  case jmpRel16 => exact Built.start.jump _
  case mulRm8 => exact ((Built.start.setReg16 _ _).setMulFlags _).advance _
  case mulRm16 => exact (((Built.start.setReg16 _ _).setReg16 _ _).setMulFlags _).advance _
  case movR8Rm8 => exact (Built.start.setReg8 _ _).advance _
  case movR16Rm16 => exact (Built.start.setReg16 _ _).advance _
  case movAlOff => exact (Built.start.setReg8 _ _).advance _
  case movAxOff => exact (Built.start.setReg16 _ _).advance _
  case movOffAl => exact (Built.start.setByte _ _).advance _
  case movOffAx => exact (Built.start.setWord _ _).advance _
  case movR8Imm8 => exact (Built.start.setReg8 _ _).advance _
  case movR16Imm16 => exact (Built.start.setReg16 _ _).advance _
  all_goals first
    | exact (Built.start.writeRm8 _ _).advance _
    | exact (Built.start.writeRm16 _ _).advance _
    | exact ((Built.start.writeRm8 _ _).setFlags _).advance _
    | exact ((Built.start.writeRm16 _ _).setFlags _).advance _

/-- The next state of a step is built by those updates. -/
theorem step_built {s t : State} (h : step s = .next t) : Built s t := by
  obtain ⟨i, -, hi⟩ := (step_next_iff s t).mp h
  exact exec_built hi

end Sys2Proof.Machine
end

