-- ==== Sys2Proof/Tests/Slice0.lean ====
section
/-! SUPPORT. The model's own tests: the smoke test of well-formedness, every constructor decoded from a word written
out from the spec's encoding of it, single steps whose expected results are the spec's test vectors
(spec/95_test_vectors.md), and for every statement with hypotheses a witness that meets them. -/

namespace Sys2Proof.Tests

open Sys2Proof Sys2Proof.Machine

/-! ### Helpers -/

/-- The state with `pc` at `pc` and the bytes of the instruction there. -/
def placed (s : State) (pc : Word) (bytes : List Byte) : State :=
  ((s.jump pc).storeBytes (s.phys s.cs pc) bytes)

/-- A field of the next state, where there is one. -/
def after {α : Type} (r : Result) (read : State → α) : Option α :=
  match r with
  | .next t => some (read t)
  | .fault _ => none
  | .refused _ => none

/-- The report of a fatal step. -/
def faultOf (r : Result) : Option Fault :=
  match r with
  | .next _ => none
  | .fault f => some f
  | .refused _ => none

/-- CF, ZF, SF, OF. -/
def fourFlags (s : State) : Bool × Bool × Bool × Bool := (s.flags.cf, s.flags.zf, s.flags.sf, s.flags.of)

/-- The state with another value in SS. -/
def withSs (s : State) (v : Word) : State := { s with ss := v }

/-- The decoder on a list of bytes, with the default parameters. -/
def decoded (bytes : List Byte) : Except DecodeError Instr := decode Config.default (bytesOf bytes)

/-! ### Well-formedness (30_encoding.md R105: no encoding means `[BP]` without a displacement) -/

theorem test_wellFormed_refuses_bp_without_displacement :
    (Instr.movRm8R8 (.mem (.base .bp)) .al).wellFormed = false := by decide

theorem test_wellFormed_refuses_it_as_a_source : (Instr.addR16Rm16 .ax (.mem (.base .bp))).wellFormed = false := by decide

theorem test_wellFormed_accepts_bp_with_displacement :
    (Instr.movRm8R8 (.mem (.disp8 .bp 0x00)) .al).wellFormed = true := by decide

/-! ### Memory keeps its canonical form (20_memory.md R63, R68) -/

theorem test_writing_zero_unlists :
    ((State.reset.setByte 0x0200#16 0x5A#8).setByte 0x0200#16 0x00#8).mem = [] := by decide

theorem test_cells_rise :
    ((State.reset.setByte 0xFFFF#16 0x01#8).setWord 0x0010#16 0x0203#16).mem =
      [(0x0010, 0x03#8), (0x0011, 0x02#8), (0xFFFF, 0x01#8)] := by decide

theorem test_word_wraps_at_the_top : (State.reset.setWord 0xFFFF#16 0x1234#16).byteAt 0x0000#16 = 0x12#8 := by decide

/-! ### The parameters (92_eei_decisions.md) -/

theorem test_default_parameters_are_consistent : parametersConsistent Config.default = true := by decide

theorem test_a_recognised_marker_is_not :
    parametersConsistent { Config.default with markerOpcode := 0xCF#8 } = false := by decide

/-! ### Decoding: every constructor from a word of its encoding (30_encoding.md R102 to R115) -/

/-- `88 07`, `89 47 04`, `8A 0E 00 03`, `8B C3`: ModRM 07 is mod 00 rm 111, 47 is mod 01 rm 111, 0E is the direct
offset, C3 is mod 11. -/
theorem test_decode_mov_rm :
    decoded [0x88, 0x07] = .ok (.movRm8R8 (.mem (.base .bx)) .al) ∧
    decoded [0x89, 0x47, 0x04] = .ok (.movRm16R16 (.mem (.disp8 .bx 0x04)) .ax) ∧
    decoded [0x8A, 0x0E, 0x00, 0x03] = .ok (.movR8Rm8 .cl (.mem (.direct 0x0300))) ∧
    decoded [0x8B, 0xC3] = .ok (.movR16Rm16 .ax (.reg .bx)) := by decide

theorem test_decode_mov_moffs :
    decoded [0xA0, 0x00, 0x03] = .ok (.movAlOff 0x0300) ∧ decoded [0xA1, 0x00, 0x02] = .ok (.movAxOff 0x0200) ∧
    decoded [0xA2, 0x10, 0x03] = .ok (.movOffAl 0x0310) ∧ decoded [0xA3, 0x00, 0x02] = .ok (.movOffAx 0x0200) := by
  decide

theorem test_decode_mov_imm :
    decoded [0xB4, 0x02] = .ok (.movR8Imm8 .ah 0x02) ∧ decoded [0xB8, 0x34, 0x12] = .ok (.movR16Imm16 .ax 0x1234) ∧
    decoded [0xC6, 0x47, 0x02, 0xFF] = .ok (.movRm8Imm8 (.mem (.disp8 .bx 0x02)) 0xFF) ∧
    decoded [0xC7, 0x87, 0x00, 0x02, 0x34, 0x12] = .ok (.movRm16Imm16 (.mem (.disp16 .bx 0x0200)) 0x1234) := by decide

theorem test_decode_add :
    decoded [0x00, 0x07] = .ok (.addRm8R8 (.mem (.base .bx)) .al) ∧ decoded [0x01, 0xC8] = .ok (.addRm16R16 (.reg .ax) .cx) ∧
    decoded [0x02, 0x47, 0x02] = .ok (.addR8Rm8 .al (.mem (.disp8 .bx 0x02))) ∧
    decoded [0x03, 0xC1] = .ok (.addR16Rm16 .ax (.reg .cx)) ∧
    decoded [0x04, 0x01] = .ok (.addAlImm8 0x01) ∧ decoded [0x05, 0x00, 0x80] = .ok (.addAxImm16 0x8000) ∧
    decoded [0x80, 0x06, 0x00, 0x03, 0x10] = .ok (.addRm8Imm8 (.mem (.direct 0x0300)) 0x10) ∧
    decoded [0x81, 0xC3, 0x00, 0x10] = .ok (.addRm16Imm16 (.reg .bx) 0x1000) ∧
    decoded [0x83, 0xC0, 0xFF] = .ok (.addRm16Imm8 (.reg .ax) 0xFF) := by decide

theorem test_decode_sub :
    decoded [0x28, 0xC8] = .ok (.subRm8R8 (.reg .al) .cl) ∧ decoded [0x29, 0x1F] = .ok (.subRm16R16 (.mem (.base .bx)) .bx) ∧
    decoded [0x2A, 0xC4] = .ok (.subR8Rm8 .al (.reg .ah)) ∧ decoded [0x2B, 0xC3] = .ok (.subR16Rm16 .ax (.reg .bx)) ∧
    decoded [0x2C, 0x01] = .ok (.subAlImm8 0x01) ∧ decoded [0x2D, 0x12, 0x01] = .ok (.subAxImm16 0x0112) ∧
    decoded [0x80, 0x2F, 0x01] = .ok (.subRm8Imm8 (.mem (.base .bx)) 0x01) ∧
    decoded [0x81, 0xEB, 0x34, 0x12] = .ok (.subRm16Imm16 (.reg .bx) 0x1234) ∧
    decoded [0x83, 0xE9, 0x01] = .ok (.subRm16Imm8 (.reg .cx) 0x01) := by decide

theorem test_decode_mul_div :
    decoded [0xF6, 0xE3] = .ok (.mulRm8 (.reg .bl)) ∧ decoded [0xF7, 0x26, 0x00, 0x02] = .ok (.mulRm16 (.mem (.direct 0x0200))) ∧
    decoded [0xF6, 0xF1] = .ok (.divRm8 (.reg .cl)) ∧ decoded [0xF7, 0xF3] = .ok (.divRm16 (.reg .bx)) ∧
    decoded [0xF6, 0xFB] = .ok (.idivRm8 (.reg .bl)) ∧ decoded [0xF7, 0xFB] = .ok (.idivRm16 (.reg .bx)) := by decide

theorem test_decode_inc_dec :
    decoded [0x42] = .ok (.incR16 .dx) ∧ decoded [0x4F] = .ok (.decR16 .di) ∧ decoded [0xFE, 0xC0] = .ok (.incRm8 (.reg .al)) ∧
    decoded [0xFE, 0x0F] = .ok (.decRm8 (.mem (.base .bx))) ∧
    decoded [0xFF, 0x06, 0x00, 0x03] = .ok (.incRm16 (.mem (.direct 0x0300))) ∧
    decoded [0xFF, 0x4F, 0x02] = .ok (.decRm16 (.mem (.disp8 .bx 0x02))) := by decide

theorem test_decode_jumps :
    decoded [0xEB, 0x05] = .ok (.jmpRel8 0x05) ∧ decoded [0xE9, 0x0C, 0x00] = .ok (.jmpRel16 0x000C) ∧
    decoded [0xE2, 0xFC] = .ok (.loop 0xFC) ∧
    decoded [0x70, 0x02] = .ok (.jo 0x02) ∧ decoded [0x71, 0x02] = .ok (.jno 0x02) ∧
    decoded [0x72, 0x10] = .ok (.jc 0x10) ∧ decoded [0x73, 0xFE] = .ok (.jnc 0xFE) ∧
    decoded [0x74, 0x03] = .ok (.jz 0x03) ∧ decoded [0x75, 0xFB] = .ok (.jnz 0xFB) ∧
    decoded [0x76, 0x04] = .ok (.jna 0x04) ∧ decoded [0x77, 0x04] = .ok (.ja 0x04) ∧
    decoded [0x78, 0x7F] = .ok (.js 0x7F) ∧ decoded [0x79, 0x80] = .ok (.jns 0x80) ∧
    decoded [0x7C, 0x02] = .ok (.jl 0x02) ∧ decoded [0x7D, 0x02] = .ok (.jge 0x02) ∧
    decoded [0x7E, 0x06] = .ok (.jle 0x06) ∧ decoded [0x7F, 0x06] = .ok (.jg 0x06) := by decide

theorem test_decode_stack_and_interrupts :
    decoded [0x54] = .ok (.pushR16 .sp) ∧ decoded [0x5A] = .ok (.popR16 .dx) ∧
    decoded [0xE8, 0x03, 0x00] = .ok (.callRel16 0x0003) ∧ decoded [0xC3] = .ok .ret ∧
    decoded [0xCD, 0x21] = .ok (.int 0x21) ∧ decoded [0xCF] = .ok .iret ∧ decoded [0x90] = .ok .nop := by decide

/-- The eight bases of 30_encoding.md R105, with two displacement bytes. -/
theorem test_decode_bases :
    (List.range 8).map (fun k => decoded [0x8B, 0x80 + BitVec.ofNat 8 k, 0x34, 0x12]) =
      [Base.bxSi, .bxDi, .bpSi, .bpDi, .si, .di, .bp, .bx].map
        (fun b => .ok (.movR16Rm16 .ax (.mem (.disp16 b 0x1234)))) := by decide

/-- The eight registers of either width (10_state.md R21, R22), in the `reg` field. -/
theorem test_decode_registers :
    (List.range 8).map (fun k => decoded [0x8B, 0x04 + BitVec.ofNat 8 (8 * k)]) =
      [Reg16.ax, .cx, .dx, .bx, .sp, .bp, .si, .di].map (fun r => .ok (.movR16Rm16 r (.mem (.base .si)))) ∧
    (List.range 8).map (fun k => decoded [0x8A, 0xC0 + BitVec.ofNat 8 k]) =
      [Reg8.al, .cl, .dl, .bl, .ah, .ch, .dh, .bh].map (fun r => .ok (.movR8Rm8 .al (.reg r))) := by decide

/-! ### The host's way in: an instruction as a number, decoded and placed -/

theorem test_decodeTableWord :
    decodeTableWord 16 0xC38B = some (.movR16Rm16 .ax (.reg .bx)) ∧
    decodeTableWord 8 0xB8 = some (.movR16Imm16 .ax 0x0000) ∧ decodeTableWord 8 0x0F = none := by decide

theorem test_withFetchWord :
    after (step (State.reset.withFetchWord 24 0x1234B8)) (fun t => (t.reg16 .ax, t.ip)) =
      some (0x1234#16, 0x0103#16) := by decide

/-! ### MOV (40_mov.md R151 to R162) -/

/-- Vector V151 of 95_test_vectors.md, rule R151. -/
theorem test_V151 :
    after (step (placed ((State.reset.setReg16 .bx 0x0200#16).setReg16 .ax 0x005A#16) 0x0100#16 [0x88, 0x07])) (fun t => (t.byteAt 0x0200#16, t.ip)) =
      some (0x5A#8, 0x0102#16) := by decide

/-- Vector V151h of 95_test_vectors.md, rule R151. -/
theorem test_V151h :
    after (step (placed ((State.reset.setReg16 .ax 0x1234#16).setReg16 .cx 0xFFFF#16) 0x0100#16 [0x88, 0xE1])) (fun t => (t.reg16 .cx, t.ip)) =
      some (0xFF12#16, 0x0102#16) := by decide

/-- Vector V152 of 95_test_vectors.md, rule R152. -/
theorem test_V152 :
    after (step (placed ((State.reset.setReg16 .bx 0x0200#16).setReg16 .ax 0x1233#16) 0x0100#16 [0x89, 0x47, 0x04])) (fun t => (t.wordAt 0x0204#16, t.ip)) =
      some (0x1233#16, 0x0103#16) := by decide

/-- Vector V153 of 95_test_vectors.md, rule R153. -/
theorem test_V153 :
    after (step (placed ((State.reset.setReg16 .cx 0xAB00#16).storeBytes 0x0300#16 [0x07]) 0x0100#16 [0x8A, 0x0E, 0x00, 0x03])) (fun t => (t.reg16 .cx, t.ip)) =
      some (0xAB07#16, 0x0104#16) := by decide

/-- Vector V154ss of 95_test_vectors.md, rule R154. -/
theorem test_V154ss :
    after (step (placed (withSs ((State.reset.setReg16 .bp 0x0300#16).storeBytes 0x03FE#16 [0xCD, 0xAB]) 0x0010#16) 0x0100#16 [0x8B, 0x46, 0xFE])) (fun t => (t.reg16 .ax, t.ip)) =
      some (0xABCD#16, 0x0103#16) := by decide

/-- Vector V154self of 95_test_vectors.md, rule R154. -/
theorem test_V154self :
    after (step (placed ((State.reset.setReg16 .bx 0x0200#16).storeBytes 0x0200#16 [0x00, 0x03]) 0x0100#16 [0x8B, 0x1F])) (fun t => (t.reg16 .bx, t.ip)) =
      some (0x0300#16, 0x0102#16) := by decide

/-- Vector V155 of 95_test_vectors.md, rule R155. -/
theorem test_V155 :
    after (step (placed ((State.reset.setReg16 .ax 0x1200#16).storeBytes 0x0300#16 [0x7F]) 0x0100#16 [0xA0, 0x00, 0x03])) (fun t => (t.reg16 .ax, t.ip)) =
      some (0x127F#16, 0x0103#16) := by decide

/-- Vector V156 of 95_test_vectors.md, rule R156. -/
theorem test_V156 :
    after (step (placed (State.reset.storeBytes 0x0200#16 [0x34, 0x12]) 0x0100#16 [0xA1, 0x00, 0x02])) (fun t => (t.reg16 .ax, t.ip)) =
      some (0x1234#16, 0x0103#16) := by decide

/-- Vector V157 of 95_test_vectors.md, rule R157. -/
theorem test_V157 :
    after (step (placed (State.reset.setReg16 .ax 0x0041#16) 0x0100#16 [0xA2, 0x10, 0x03])) (fun t => (t.byteAt 0x0310#16, t.ip)) =
      some (0x41#8, 0x0103#16) := by decide

/-- Vector V158 of 95_test_vectors.md, rule R158. -/
theorem test_V158 :
    after (step (placed (State.reset.setReg16 .ax 0xCAFE#16) 0x0100#16 [0xA3, 0x00, 0x02])) (fun t => (t.wordAt 0x0200#16, t.ip)) =
      some (0xCAFE#16, 0x0103#16) := by decide

/-- Vector V159a of 95_test_vectors.md, rule R159. -/
theorem test_V159a :
    after (step (placed (State.reset.setReg16 .ax 0x00FF#16) 0x0100#16 [0xB4, 0x02])) (fun t => (t.reg16 .ax, t.ip)) =
      some (0x02FF#16, 0x0102#16) := by decide

/-- Vector V159b of 95_test_vectors.md, rule R159. -/
theorem test_V159b :
    after (step (placed State.reset 0x0100#16 [0xB1, 0x07])) (fun t => (t.reg16 .cx, t.ip)) =
      some (0x0007#16, 0x0102#16) := by decide

/-- Vector V160 of 95_test_vectors.md, rule R160. -/
theorem test_V160 :
    after (step (placed State.reset 0x0100#16 [0xB8, 0x34, 0x12])) (fun t => (t.reg16 .ax, t.ip)) =
      some (0x1234#16, 0x0103#16) := by decide

/-- Vector V161 of 95_test_vectors.md, rule R161. -/
theorem test_V161 :
    after (step (placed (State.reset.setReg16 .bx 0x0200#16) 0x0100#16 [0xC6, 0x47, 0x02, 0xFF])) (fun t => (t.byteAt 0x0202#16, t.ip)) =
      some (0xFF#8, 0x0104#16) := by decide

/-- Vector V161r of 95_test_vectors.md, rule R161. -/
theorem test_V161r :
    after (step (placed (State.reset.setReg16 .ax 0xFFFF#16) 0x0100#16 [0xC6, 0xC0, 0x05])) (fun t => (t.reg16 .ax, t.ip)) =
      some (0xFF05#16, 0x0103#16) := by decide

/-- Vector V162 of 95_test_vectors.md, rule R162. -/
theorem test_V162 :
    after (step (placed (State.reset.setReg16 .bx 0x0200#16) 0x0100#16 [0xC7, 0x07, 0x34, 0x12])) (fun t => (t.wordAt 0x0200#16, t.ip)) =
      some (0x1234#16, 0x0104#16) := by decide

/-! ### ADD (41_add_sub_mul_div.md R183 to R191) -/

/-- Vector V183 of 95_test_vectors.md, rule R183. -/
theorem test_V183 :
    after (step (placed (((State.reset.setReg16 .bx 0x0200#16).setReg16 .ax 0x0001#16).storeBytes 0x0200#16 [0x7F]) 0x0100#16 [0x00, 0x07])) (fun t => (t.byteAt 0x0200#16, fourFlags t, t.ip)) =
      some (0x80#8, (false, false, true, true), 0x0102#16) := by decide

/-- Vector V183c of 95_test_vectors.md, rule R183. -/
theorem test_V183c :
    after (step (placed (State.reset.setReg16 .ax 0x0080#16) 0x0100#16 [0x00, 0xC0])) (fun t => (t.reg16 .ax, fourFlags t, t.ip)) =
      some (0x0000#16, (true, true, false, true), 0x0102#16) := by decide

/-- Vector V184 of 95_test_vectors.md, rule R184. -/
theorem test_V184 :
    after (step (placed ((State.reset.setReg16 .ax 0x7FFF#16).setReg16 .cx 0x0001#16) 0x0100#16 [0x01, 0xC8])) (fun t => (t.reg16 .ax, fourFlags t, t.ip)) =
      some (0x8000#16, (false, false, true, true), 0x0102#16) := by decide

/-- Vector V184c of 95_test_vectors.md, rule R184. -/
theorem test_V184c :
    after (step (placed ((State.reset.setReg16 .ax 0xFFFF#16).setReg16 .cx 0x0001#16) 0x0100#16 [0x01, 0xC8])) (fun t => (t.reg16 .ax, fourFlags t, t.ip)) =
      some (0x0000#16, (true, true, false, false), 0x0102#16) := by decide

/-- Vector V185 of 95_test_vectors.md, rule R185. -/
theorem test_V185 :
    after (step (placed (((State.reset.setReg16 .bx 0x0200#16).setReg16 .ax 0x1234#16).storeBytes 0x0202#16 [0xFF]) 0x0100#16 [0x02, 0x47, 0x02])) (fun t => (t.reg16 .ax, fourFlags t, t.ip)) =
      some (0x1233#16, (true, false, false, false), 0x0103#16) := by decide

/-- Vector V186c of 95_test_vectors.md, rule R186. -/
theorem test_V186c :
    after (step (placed (State.reset.setReg16 .ax 0x8000#16) 0x0100#16 [0x03, 0xC0])) (fun t => (t.reg16 .ax, fourFlags t, t.ip)) =
      some (0x0000#16, (true, true, false, true), 0x0102#16) := by decide

/-- Vector V187 of 95_test_vectors.md, rule R187. -/
theorem test_V187 :
    after (step (placed (State.reset.setReg16 .ax 0x00FF#16) 0x0100#16 [0x04, 0x01])) (fun t => (t.reg16 .ax, fourFlags t, t.ip)) =
      some (0x0000#16, (true, true, false, false), 0x0102#16) := by decide

/-- Vector V188 of 95_test_vectors.md, rule R188. -/
theorem test_V188 :
    after (step (placed (State.reset.setReg16 .ax 0x8000#16) 0x0100#16 [0x05, 0x00, 0x80])) (fun t => (t.reg16 .ax, fourFlags t, t.ip)) =
      some (0x0000#16, (true, true, false, true), 0x0103#16) := by decide

/-- Vector V189 of 95_test_vectors.md, rule R189. -/
theorem test_V189 :
    after (step (placed (State.reset.storeBytes 0x0300#16 [0xF8]) 0x0100#16 [0x80, 0x06, 0x00, 0x03, 0x10])) (fun t => (t.byteAt 0x0300#16, fourFlags t, t.ip)) =
      some (0x08#8, (true, false, false, false), 0x0105#16) := by decide

/-- Vector V190 of 95_test_vectors.md, rule R190. -/
theorem test_V190 :
    after (step (placed (State.reset.setReg16 .bx 0x0234#16) 0x0100#16 [0x81, 0xC3, 0x00, 0x10])) (fun t => (t.reg16 .bx, t.ip)) =
      some (0x1234#16, 0x0104#16) := by decide

/-- Vector V191 of 95_test_vectors.md, rule R191. -/
theorem test_V191 :
    after (step (placed (State.reset.setReg16 .bx 0x00FE#16) 0x0100#16 [0x83, 0xC3, 0x05])) (fun t => (t.reg16 .bx, t.ip)) =
      some (0x0103#16, 0x0103#16) := by decide

/-- Vector V191c of 95_test_vectors.md, rule R191. -/
theorem test_V191c :
    after (step (placed (State.reset.setReg16 .ax 0x0001#16) 0x0100#16 [0x83, 0xC0, 0xFF])) (fun t => (t.reg16 .ax, fourFlags t, t.ip)) =
      some (0x0000#16, (true, true, false, false), 0x0103#16) := by decide

/-! ### SUB (41_add_sub_mul_div.md R192 to R200) -/

/-- Vector V192 of 95_test_vectors.md, rule R192. -/
theorem test_V192 :
    after (step (placed ((State.reset.setReg16 .ax 0x0005#16).setReg16 .cx 0x0005#16) 0x0100#16 [0x28, 0xC8])) (fun t => (t.reg16 .ax, fourFlags t, t.ip)) =
      some (0x0000#16, (false, true, false, false), 0x0102#16) := by decide

/-- Vector V192c of 95_test_vectors.md, rule R192. -/
theorem test_V192c :
    after (step (placed ((State.reset.setReg16 .ax 0x0080#16).setReg16 .cx 0x0001#16) 0x0100#16 [0x28, 0xC8])) (fun t => (t.reg16 .ax, fourFlags t, t.ip)) =
      some (0x007F#16, (false, false, false, true), 0x0102#16) := by decide

/-- Vector V193 of 95_test_vectors.md, rule R193. -/
theorem test_V193 :
    after (step (placed ((State.reset.setReg16 .bx 0x0200#16).storeBytes 0x0200#16 [0x00, 0x03]) 0x0100#16 [0x29, 0x1F])) (fun t => (t.wordAt 0x0200#16, t.ip)) =
      some (0x0100#16, 0x0102#16) := by decide

/-- Vector V193c of 95_test_vectors.md, rule R193. -/
theorem test_V193c :
    after (step (placed ((State.reset.setReg16 .ax 0x8000#16).setReg16 .cx 0x0001#16) 0x0100#16 [0x29, 0xC8])) (fun t => (t.reg16 .ax, fourFlags t, t.ip)) =
      some (0x7FFF#16, (false, false, false, true), 0x0102#16) := by decide

/-- Vector V194 of 95_test_vectors.md, rule R194. -/
theorem test_V194 :
    after (step (placed (State.reset.setReg16 .ax 0x0300#16) 0x0100#16 [0x2A, 0xC4])) (fun t => (t.reg16 .ax, fourFlags t, t.ip)) =
      some (0x03FD#16, (true, false, true, false), 0x0102#16) := by decide

/-- Vector V195 of 95_test_vectors.md, rule R195. -/
theorem test_V195 :
    after (step (placed ((State.reset.setReg16 .ax 0x0005#16).setReg16 .bx 0x0007#16) 0x0100#16 [0x2B, 0xC3])) (fun t => (t.reg16 .ax, fourFlags t, t.ip)) =
      some (0xFFFE#16, (true, false, true, false), 0x0102#16) := by decide

/-- Vector V195c of 95_test_vectors.md, rule R195. -/
theorem test_V195c :
    after (step (placed ((State.reset.setReg16 .ax 0x1234#16).setFlags ⟨true, false, true, true, false⟩) 0x0100#16 [0x2B, 0xC0])) (fun t => (t.reg16 .ax, fourFlags t, t.ip)) =
      some (0x0000#16, (false, true, false, false), 0x0102#16) := by decide

/-- Vector V196 of 95_test_vectors.md, rule R196. -/
theorem test_V196 :
    after (step (placed State.reset 0x0100#16 [0x2C, 0x01])) (fun t => (t.reg16 .ax, fourFlags t, t.ip)) =
      some (0x00FF#16, (true, false, true, false), 0x0102#16) := by decide

/-- Vector V197c of 95_test_vectors.md, rule R197. -/
theorem test_V197c :
    after (step (placed State.reset 0x0100#16 [0x2D, 0x00, 0x80])) (fun t => (t.reg16 .ax, fourFlags t, t.ip)) =
      some (0x8000#16, (true, false, true, true), 0x0103#16) := by decide

/-- Vector V198 of 95_test_vectors.md, rule R198. -/
theorem test_V198 :
    after (step (placed ((State.reset.setReg16 .bx 0x0200#16).storeBytes 0x0200#16 [0x80]) 0x0100#16 [0x80, 0x2F, 0x01])) (fun t => (t.byteAt 0x0200#16, fourFlags t, t.ip)) =
      some (0x7F#8, (false, false, false, true), 0x0103#16) := by decide

/-- Vector V199 of 95_test_vectors.md, rule R199. -/
theorem test_V199 :
    after (step (placed (State.reset.setReg16 .bx 0x1234#16) 0x0100#16 [0x81, 0xEB, 0x34, 0x12])) (fun t => (t.reg16 .bx, fourFlags t, t.ip)) =
      some (0x0000#16, (false, true, false, false), 0x0104#16) := by decide

/-- Vector V200 of 95_test_vectors.md, rule R200. -/
theorem test_V200 :
    after (step (placed State.reset 0x0100#16 [0x83, 0xE9, 0x01])) (fun t => (t.reg16 .cx, fourFlags t, t.ip)) =
      some (0xFFFF#16, (true, false, true, false), 0x0103#16) := by decide

/-- Vector V200c of 95_test_vectors.md, rule R200. -/
theorem test_V200c :
    after (step (placed State.reset 0x0100#16 [0x83, 0xE8, 0xFF])) (fun t => (t.reg16 .ax, fourFlags t, t.ip)) =
      some (0x0001#16, (true, false, false, false), 0x0103#16) := by decide

/-! ### MUL, DIV, IDIV (41_add_sub_mul_div.md R201 to R206); the drawn flags are not looked at -/

/-- Vector V201 of 95_test_vectors.md, rule R201. -/
theorem test_V201 :
    after (step (placed ((State.reset.setReg16 .ax 0x0010#16).setReg16 .bx 0x0010#16) 0x0100#16 [0xF6, 0xE3])) (fun t => (t.reg16 .ax, t.flags.cf, t.flags.of, t.ip)) =
      some (0x0100#16, true, true, 0x0102#16) := by decide

/-- Vector V201z of 95_test_vectors.md, rule R201. -/
theorem test_V201z :
    after (step (placed ((State.reset.setReg16 .ax 0xFF0F#16).setReg16 .bx 0x0010#16) 0x0100#16 [0xF6, 0xE3])) (fun t => (t.reg16 .ax, t.flags.cf, t.flags.of, t.ip)) =
      some (0x00F0#16, false, false, 0x0102#16) := by decide

/-- Vector V202 of 95_test_vectors.md, rule R202. -/
theorem test_V202 :
    after (step (placed ((State.reset.setReg16 .ax 0x0018#16).setReg16 .bx 0x0005#16) 0x0100#16 [0xF7, 0xE3])) (fun t => (t.reg16 .ax, t.flags.cf, t.flags.of, t.ip)) =
      some (0x0078#16, false, false, 0x0102#16) := by decide

/-- Vector V202c of 95_test_vectors.md, rule R202. -/
theorem test_V202c :
    after (step (placed ((State.reset.setReg16 .ax 0xFFFF#16).setReg16 .bx 0xFFFF#16) 0x0100#16 [0xF7, 0xE3])) (fun t => (t.reg16 .dx, t.flags.cf, t.flags.of, t.ip)) =
      some (0xFFFE#16, true, true, 0x0102#16) := by decide

/-- Vector V203m of 95_test_vectors.md, rule R203. -/
theorem test_V203m :
    after (step (placed ((State.reset.setReg16 .ax 0x07FE#16).setReg16 .cx 0x0008#16) 0x0100#16 [0xF6, 0xF1])) (fun t => (t.reg16 .ax, t.ip)) =
      some (0x06FF#16, 0x0102#16) := by decide

/-- Vector V203o of 95_test_vectors.md, rule R203. -/
theorem test_V203o :
    faultOf (step (placed ((State.reset.setReg16 .ax 0x0800#16).setReg16 .cx 0x0008#16) 0x0100#16 [0xF6, 0xF1])) = some (.divideError 0xF6#8 0x0100#16) := by decide

/-- Vector V204 of 95_test_vectors.md, rule R204. -/
theorem test_V204 :
    after (step (placed (((State.reset.setReg16 .dx 0x0001#16).setReg16 .ax 0x0000#16).setReg16 .bx 0x0003#16) 0x0100#16 [0xF7, 0xF3])) (fun t => (t.reg16 .ax, t.ip)) =
      some (0x5555#16, 0x0102#16) := by decide

/-- Vector V204c of 95_test_vectors.md, rule R204. -/
theorem test_V204c :
    faultOf (step (placed ((State.reset.setReg16 .dx 0x0001#16).setReg16 .ax 0x0000#16) 0x0100#16 [0xF7, 0xF2])) = some (.divideError 0xF7#8 0x0100#16) := by decide

/-- Vector V205c1 of 95_test_vectors.md, rule R205. -/
theorem test_V205c1 :
    after (step (placed ((State.reset.setReg16 .ax 0x0007#16).setReg16 .bx 0x00FE#16) 0x0100#16 [0xF6, 0xFB])) (fun t => (t.reg16 .ax, t.ip)) =
      some (0x01FD#16, 0x0102#16) := by decide

/-- Vector V205c3 of 95_test_vectors.md, rule R205. -/
theorem test_V205c3 :
    faultOf (step (placed ((State.reset.setReg16 .ax 0x8000#16).setReg16 .bx 0x00FF#16) 0x0100#16 [0xF6, 0xFB])) = some (.divideError 0xF6#8 0x0100#16) := by decide

/-- Vector V206m of 95_test_vectors.md, rule R206. -/
theorem test_V206m :
    after (step (placed (((State.reset.setReg16 .dx 0xFFFF#16).setReg16 .ax 0x8001#16).setReg16 .bx 0xFFFF#16) 0x0100#16 [0xF7, 0xFB])) (fun t => (t.reg16 .ax, t.reg16 .dx, t.ip)) =
      some (0x7FFF#16, 0x0000#16, 0x0102#16) := by decide

/-- Vector V206c of 95_test_vectors.md, rule R206. -/
theorem test_V206c :
    faultOf (step (placed (((State.reset.setReg16 .dx 0xFFFF#16).setReg16 .ax 0x8000#16).setReg16 .bx 0x0001#16) 0x0100#16 [0xF7, 0xFB])) = some (.divideError 0xF7#8 0x0100#16) := by decide

/-! ### INC and DEC (42_inc_dec.md R231 to R236) -/

/-- Vector V231c of 95_test_vectors.md, rule R231. -/
theorem test_V231c :
    after (step (placed ((State.reset.setReg16 .ax 0xFFFF#16).setFlags ⟨true, false, false, false, false⟩) 0x0100#16 [0x40])) (fun t => (t.reg16 .ax, fourFlags t, t.ip)) =
      some (0x0000#16, (true, true, false, false), 0x0101#16) := by decide

/-- Vector V231o of 95_test_vectors.md, rule R231. -/
theorem test_V231o :
    after (step (placed (State.reset.setReg16 .ax 0x7FFF#16) 0x0100#16 [0x40])) (fun t => (t.reg16 .ax, fourFlags t, t.ip)) =
      some (0x8000#16, (false, false, true, true), 0x0101#16) := by decide

/-- Vector V232c of 95_test_vectors.md, rule R232. -/
theorem test_V232c :
    after (step (placed (State.reset.setReg16 .ax 0x0000#16) 0x0100#16 [0x48])) (fun t => (t.reg16 .ax, fourFlags t, t.ip)) =
      some (0xFFFF#16, (false, false, true, false), 0x0101#16) := by decide

/-- Vector V232o of 95_test_vectors.md, rule R232. -/
theorem test_V232o :
    after (step (placed ((State.reset.setReg16 .ax 0x8000#16).setFlags ⟨true, false, false, false, false⟩) 0x0100#16 [0x48])) (fun t => (t.reg16 .ax, fourFlags t, t.ip)) =
      some (0x7FFF#16, (true, false, false, true), 0x0101#16) := by decide

/-- Vector V233 of 95_test_vectors.md, rule R233. -/
theorem test_V233 :
    after (step (placed (State.reset.setReg16 .ax 0x12FF#16) 0x0100#16 [0xFE, 0xC0])) (fun t => (t.reg16 .ax, fourFlags t, t.ip)) =
      some (0x1200#16, (false, true, false, false), 0x0102#16) := by decide

/-- Vector V233m of 95_test_vectors.md, rule R233. -/
theorem test_V233m :
    after (step (placed ((State.reset.setReg16 .bx 0x0200#16).storeBytes 0x0200#16 [0x7F]) 0x0100#16 [0xFE, 0x07])) (fun t => (t.byteAt 0x0200#16, fourFlags t, t.ip)) =
      some (0x80#8, (false, false, true, true), 0x0102#16) := by decide

/-- Vector V234 of 95_test_vectors.md, rule R234. -/
theorem test_V234 :
    after (step (placed ((State.reset.setReg16 .bx 0x0200#16).storeBytes 0x0200#16 [0x01]) 0x0100#16 [0xFE, 0x0F])) (fun t => (t.byteAt 0x0200#16, fourFlags t, t.ip)) =
      some (0x00#8, (false, true, false, false), 0x0102#16) := by decide

/-- Vector V235 of 95_test_vectors.md, rule R235. -/
theorem test_V235 :
    after (step (placed (State.reset.storeBytes 0x0300#16 [0xFF, 0x00]) 0x0100#16 [0xFF, 0x06, 0x00, 0x03])) (fun t => (t.wordAt 0x0300#16, t.ip)) =
      some (0x0100#16, 0x0104#16) := by decide

/-- Vector V236 of 95_test_vectors.md, rule R236. -/
theorem test_V236 :
    after (step (placed (State.reset.setReg16 .bx 0x0200#16) 0x0100#16 [0xFF, 0x4F, 0x02])) (fun t => (t.wordAt 0x0202#16, fourFlags t, t.ip)) =
      some (0xFFFF#16, (false, false, true, false), 0x0103#16) := by decide

/-! ### JMP, conditional jumps, LOOP (43_jumps_loop.md R251 to R268) -/

/-- Vector V251b of 95_test_vectors.md, rule R251. -/
theorem test_V251b :
    after (step (placed State.reset 0x0109#16 [0xEB, 0xFB])) (fun t => t.ip) =
      some 0x0106#16 := by decide

/-- Vector V251c of 95_test_vectors.md, rule R251. -/
theorem test_V251c :
    after (step (placed State.reset 0xFFFE#16 [0xEB, 0x10])) (fun t => t.ip) =
      some 0x0010#16 := by decide

/-- Vector V252 of 95_test_vectors.md, rule R252. -/
theorem test_V252 :
    after (step (placed State.reset 0x0111#16 [0xE9, 0x0C, 0x00])) (fun t => t.ip) =
      some 0x0120#16 := by decide

/-- Vector V252c of 95_test_vectors.md, rule R252. -/
theorem test_V252c :
    after (step (placed State.reset 0x0100#16 [0xE9, 0xFD, 0xFF])) (fun t => t.ip) =
      some 0x0100#16 := by decide

/-- Vector V254 of 95_test_vectors.md, rule R254. -/
theorem test_V254 :
    after (step (placed (State.reset.setFlags ⟨false, false, false, true, false⟩) 0x0100#16 [0x70, 0x02])) (fun t => t.ip) =
      some 0x0104#16 := by decide

/-- Vector V255 of 95_test_vectors.md, rule R255. -/
theorem test_V255 :
    after (step (placed State.reset 0x0100#16 [0x71, 0x02])) (fun t => t.ip) =
      some 0x0104#16 := by decide

/-- Vector V255n of 95_test_vectors.md, rule R255. -/
theorem test_V255n :
    after (step (placed (State.reset.setFlags ⟨false, false, false, true, false⟩) 0x0100#16 [0x71, 0x02])) (fun t => t.ip) =
      some 0x0102#16 := by decide

/-- Vector V256 of 95_test_vectors.md, rule R256. -/
theorem test_V256 :
    after (step (placed (State.reset.setFlags ⟨true, false, false, false, false⟩) 0x0200#16 [0x72, 0x10])) (fun t => t.ip) =
      some 0x0212#16 := by decide

/-- Vector V257 of 95_test_vectors.md, rule R257. -/
theorem test_V257 :
    after (step (placed State.reset 0x0200#16 [0x73, 0xFE])) (fun t => t.ip) =
      some 0x0200#16 := by decide

/-- Vector V258 of 95_test_vectors.md, rule R258. -/
theorem test_V258 :
    after (step (placed (State.reset.setFlags ⟨false, true, false, false, false⟩) 0x0100#16 [0x74, 0x03])) (fun t => t.ip) =
      some 0x0105#16 := by decide

/-- Vector V259 of 95_test_vectors.md, rule R259. -/
theorem test_V259 :
    after (step (placed State.reset 0x0109#16 [0x75, 0xFB])) (fun t => t.ip) =
      some 0x0106#16 := by decide

/-- Vector V259n of 95_test_vectors.md, rule R259. -/
theorem test_V259n :
    after (step (placed (State.reset.setFlags ⟨false, true, false, false, false⟩) 0x0109#16 [0x75, 0xFB])) (fun t => t.ip) =
      some 0x010B#16 := by decide

/-- Vector V260 of 95_test_vectors.md, rule R260. -/
theorem test_V260 :
    after (step (placed (State.reset.setFlags ⟨false, true, false, false, false⟩) 0x0100#16 [0x76, 0x04])) (fun t => t.ip) =
      some 0x0106#16 := by decide

/-- Vector V261 of 95_test_vectors.md, rule R261. -/
theorem test_V261 :
    after (step (placed State.reset 0x0100#16 [0x77, 0x04])) (fun t => t.ip) =
      some 0x0106#16 := by decide

/-- Vector V261n of 95_test_vectors.md, rule R261. -/
theorem test_V261n :
    after (step (placed (State.reset.setFlags ⟨true, false, false, false, false⟩) 0x0100#16 [0x77, 0x04])) (fun t => t.ip) =
      some 0x0102#16 := by decide

/-- Vector V262 of 95_test_vectors.md, rule R262. -/
theorem test_V262 :
    after (step (placed (State.reset.setFlags ⟨false, false, true, false, false⟩) 0x0100#16 [0x78, 0x7F])) (fun t => t.ip) =
      some 0x0181#16 := by decide

/-- Vector V263 of 95_test_vectors.md, rule R263. -/
theorem test_V263 :
    after (step (placed State.reset 0x0100#16 [0x79, 0x80])) (fun t => t.ip) =
      some 0x0082#16 := by decide

/-- Vector V264 of 95_test_vectors.md, rule R264. -/
theorem test_V264 :
    after (step (placed (State.reset.setFlags ⟨false, false, true, false, false⟩) 0x0112#16 [0x7C, 0x02])) (fun t => t.ip) =
      some 0x0116#16 := by decide

/-- Vector V265 of 95_test_vectors.md, rule R265. -/
theorem test_V265 :
    after (step (placed State.reset 0x0112#16 [0x7D, 0x02])) (fun t => t.ip) =
      some 0x0116#16 := by decide

/-- Vector V266 of 95_test_vectors.md, rule R266. -/
theorem test_V266 :
    after (step (placed (State.reset.setFlags ⟨false, true, false, false, false⟩) 0x0100#16 [0x7E, 0x06])) (fun t => t.ip) =
      some 0x0108#16 := by decide

/-- Vector V267 of 95_test_vectors.md, rule R267. -/
theorem test_V267 :
    after (step (placed (State.reset.setFlags ⟨false, false, true, true, false⟩) 0x0100#16 [0x7F, 0x06])) (fun t => t.ip) =
      some 0x0108#16 := by decide

/-- Vector V267n of 95_test_vectors.md, rule R267. -/
theorem test_V267n :
    after (step (placed (State.reset.setFlags ⟨false, true, false, false, false⟩) 0x0100#16 [0x7F, 0x06])) (fun t => t.ip) =
      some 0x0102#16 := by decide

/-- Vector V268b of 95_test_vectors.md, rule R268. -/
theorem test_V268b :
    after (step (placed (State.reset.setReg16 .cx 0x0001#16) 0x0108#16 [0xE2, 0xFC])) (fun t => (t.reg16 .cx, t.ip)) =
      some (0x0000#16, 0x010A#16) := by decide

/-- Vector V268c of 95_test_vectors.md, rule R268. -/
theorem test_V268c :
    after (step (placed (State.reset.setReg16 .cx 0x0000#16) 0x0108#16 [0xE2, 0xFC])) (fun t => (t.reg16 .cx, t.ip)) =
      some (0xFFFF#16, 0x0106#16) := by decide

/-! ### The stack (44_stack_call_ret.md R292 to R295) -/

/-- Vector V292o of 95_test_vectors.md, rule R292. -/
theorem test_V292o :
    after (step (placed ((State.reset.setReg16 .bx 0xABCD#16).setReg16 .sp 0x0001#16) 0x0100#16 [0x53])) (fun t => (t.reg16 .sp, t.byteAt 0xFFFF#16, t.byteAt 0x0000#16, t.ip)) =
      some (0xFFFF#16, 0xCD#8, 0xAB#8, 0x0101#16) := by decide

/-- Vector V292c of 95_test_vectors.md, rule R292. -/
theorem test_V292c :
    faultOf (step (placed State.reset 0x0100#16 [0x54])) = some (.refusedForm 0x54#8 0x0100#16) := by decide

/-- Vector V293c of 95_test_vectors.md, rule R293. -/
theorem test_V293c :
    after (step (placed ((State.reset.setReg16 .sp 0xFFFA#16).storeBytes 0xFFFA#16 [0x34, 0x12]) 0x0100#16 [0x5C])) (fun t => (t.reg16 .sp, t.ip)) =
      some (0x1234#16, 0x0101#16) := by decide

/-- Vector V293w of 95_test_vectors.md, rule R293. -/
theorem test_V293w :
    after (step (placed (((State.reset.setReg16 .sp 0xFFFF#16).storeBytes 0xFFFF#16 [0x34]).storeBytes 0x0000#16 [0x12]) 0x0100#16 [0x58])) (fun t => (t.reg16 .ax, t.reg16 .sp, t.ip)) =
      some (0x1234#16, 0x0001#16, 0x0101#16) := by decide

/-- Vector V294 of 95_test_vectors.md, rule R294. -/
theorem test_V294 :
    after (step (placed State.reset 0x010E#16 [0xE8, 0x03, 0x00])) (fun t => (t.reg16 .sp, t.wordAt 0xFFFC#16, t.ip)) =
      some (0xFFFC#16, 0x0111#16, 0x0114#16) := by decide

/-- Vector V294b of 95_test_vectors.md, rule R294. -/
theorem test_V294b :
    after (step (placed State.reset 0x0100#16 [0xE8, 0xFD, 0xFF])) (fun t => (t.reg16 .sp, t.wordAt 0xFFFC#16, t.ip)) =
      some (0xFFFC#16, 0x0103#16, 0x0100#16) := by decide

/-- Vector V295 of 95_test_vectors.md, rule R295. -/
theorem test_V295 :
    after (step (placed ((State.reset.setReg16 .sp 0xFFFC#16).storeBytes 0xFFFC#16 [0x11, 0x01]) 0x0100#16 [0xC3])) (fun t => (t.reg16 .sp, t.ip)) =
      some (0xFFFE#16, 0x0111#16) := by decide

/-- Vector V295z of 95_test_vectors.md, rule R295. -/
theorem test_V295z :
    after (step (placed State.reset 0x0100#16 [0xC3])) (fun t => (t.reg16 .sp, t.ip)) =
      some (0x0000#16, 0x0000#16) := by decide

/-! ### INT, IRET, the marker (45_int_iret.md R320 to R324) -/

/-- Vector V320 of 95_test_vectors.md, rule R320. -/
theorem test_V320 :
    after (step (placed (((State.reset.setReg16 .ax 0x0200#16).setReg16 .dx 0x0041#16).setFlags ⟨true, false, true, false, false⟩) 0x0106#16 [0xCD, 0x21])) (fun t => (t.wordAt 0xFFF8#16, t.wordAt 0xFFFC#16, t.events, t.ip)) =
      some (0x0108#16, 0x0081#16, [.print 0x41#8], 0x0200#16) := by decide

/-- Vector V320f of 95_test_vectors.md, rule R320. -/
theorem test_V320f :
    faultOf (step (placed State.reset 0x0100#16 [0xCD, 0x13])) = some (.unknownInterruptVector 0xCD#8 0x0100#16 0x13#8) := by decide

/-- Vector V323 of 95_test_vectors.md, rule R323. -/
theorem test_V323 :
    after (step (placed (((State.reset.setReg16 .sp 0xFFF8#16).storeBytes 0xFFF8#16 [0x08, 0x01, 0x00, 0x00, 0x81, 0x00]).farJump 0xF400#16 0#16) 0x0201#16 [0xCF])) (fun t => (t.reg16 .sp, fourFlags t, t.cs, t.ip)) =
      some (0xFFFE#16, (true, false, true, false), 0x0000#16, 0x0108#16) := by decide

/-- Vector V323a of 95_test_vectors.md, rule R323. -/
theorem test_V323a :
    after (step (placed ((State.reset.setReg16 .sp 0x0200#16).storeBytes 0x0200#16 [0x00, 0x01, 0x00, 0x00, 0xFF, 0xFF]) 0x0100#16 [0xCF])) (fun t => (t.reg16 .sp, fourFlags t, t.flags.idf, t.ip)) =
      some (0x0206#16, (true, true, true, true), true, 0x0100#16) := by decide

/-- Vector V324 of 95_test_vectors.md, rule R324. -/
theorem test_V324 :
    after (step (placed (State.reset.farJump 0xF400#16 0#16) 0x0200#16 [0x90])) (fun t => t.ip) =
      some 0x0201#16 := by decide

/-! ### Bytes that are no instruction (30_encoding.md R115, R116) -/

/-- Vector V161f of 95_test_vectors.md, rule R115. -/
theorem test_V161f :
    faultOf (step (placed State.reset 0x0100#16 [0xC6, 0x08, 0x05])) = some (.unimplementedAddressingMode 0xC6#8 0x0100#16 0x08#8) := by decide

/-- Vector V189f of 95_test_vectors.md, rule R115. -/
theorem test_V189f :
    faultOf (step (placed State.reset 0x0100#16 [0x80, 0x38, 0x00])) = some (.unimplementedAddressingMode 0x80#8 0x0100#16 0x38#8) := by decide

/-- Vector V201f of 95_test_vectors.md, rule R115. -/
theorem test_V201f :
    faultOf (step (placed State.reset 0x0100#16 [0xF6, 0xD0])) = some (.unimplementedAddressingMode 0xF6#8 0x0100#16 0xD0#8) := by decide

/-- Vector V235f of 95_test_vectors.md, rule R115. -/
theorem test_V235f :
    faultOf (step (placed State.reset 0x0100#16 [0xFF, 0x30])) = some (.unimplementedAddressingMode 0xFF#8 0x0100#16 0x30#8) := by decide

/-- Vector V116a of 95_test_vectors.md, rule R116. -/
theorem test_V116a :
    faultOf (step (placed State.reset 0x0100#16 [0xF4])) = some (.unrecognizedOpcode 0xF4#8 0x0100#16) := by decide

/-- Vector V116c of 95_test_vectors.md, rule R118. -/
theorem test_V116c :
    faultOf (step (placed State.reset 0x0100#16 [0x26, 0x8B, 0x07])) = some (.unrecognizedOpcode 0x26#8 0x0100#16) := by decide

/-- Vector V253p of 95_test_vectors.md, rule R116. -/
theorem test_V253p :
    faultOf (step (placed State.reset 0x0100#16 [0x7A, 0x00])) = some (.unrecognizedOpcode 0x7A#8 0x0100#16) := by decide
/-! ### Witnesses: for each statement with hypotheses, a state and operands that meet them -/

/-- The reset state with `90 CF` at the entry points of both vectors and `CD 21` at `ENTRY`. -/
def booted : State :=
  (((State.reset.storeBytes 0x0100#16 [0xCD, 0x21]).storeBytes 0x4190#16 [0x90, 0xCF]).storeBytes 0x4200#16
    [0x90, 0xCF]).setReg8 .ah 0x02#8

theorem witness_DecodeOfEncodeIsTheInstruction :
    (Instr.addRm16Imm16 (.mem (.disp16 .bp 0xFFFF)) 0x8000).wellFormed = true ∧
    Config.default.accepts (.addRm16Imm16 (.mem (.disp16 .bp 0xFFFF)) 0x8000) = true ∧
    Instr.nop.wellFormed = true ∧ Config.default.accepts .nop = true ∧
    recognisedFirstByte Config.default.markerOpcode = false := by decide

theorem witness_EncodeOfDecodeIsTheBytes :
    decode Config.default (bytesOf [0x83, 0xAE, 0x34, 0x12, 0xFF]) = .ok (.subRm16Imm8 (.mem (.disp16 .bp 0x1234)) 0xFF) ∧
    decode Config.default (bytesOf [0x90]) = .ok .nop := by decide

theorem witness_UnrecognisedFirstByteIsFatal :
    recognisedFirstByte ((placed State.reset 0x0100#16 [0x27]).fetchByte 0) = false ∧
    (placed State.reset 0x0100#16 [0x27]).fetchByte 0 ≠ (placed State.reset 0x0100#16 [0x27]).cfg.markerOpcode := by
  decide

/-- `F7` with `reg` 7, which is listed and supported, and with `reg` 5, which is not listed. -/
theorem witness_GroupOpcodesImplementTheListedRegValues :
    groupRegs (bytesOf [0xF7, 0xF8] 0).toNat = some [4, 6, 7] ∧ (regField (bytesOf [0xF7, 0xF8])).toNat = 7 ∧
    Config.default.amSupported 0xF7 0xF8 = true ∧
    groupRegs (bytesOf [0xF7, 0xE8] 0).toNat = some [4, 6, 7] ∧ (regField (bytesOf [0xF7, 0xE8])).toNat = 5 := by decide

/-- Parameters that exclude `MOV AX, [BX]`. -/
def strict : State := State.resetWith { Config.default with amUnsupported := [(0x8B#8, 0x07#8)] }

theorem witness_UnsupportedAddressingModeIsFatal :
    hasModRM ((placed strict 0x0100#16 [0x8B, 0x07]).fetchByte 0).toNat = true ∧
    (placed strict 0x0100#16 [0x8B, 0x07]).cfg.amSupported ((placed strict 0x0100#16 [0x8B, 0x07]).fetchByte 0)
      ((placed strict 0x0100#16 [0x8B, 0x07]).fetchByte 1) = false := by decide

/-- An instruction across the wrap of the offset: `B8 34 12` at 0xFFFE. -/
theorem witness_StepRunsTheDecodedInstruction :
    (placed State.reset 0xFFFE#16 [0xB8, 0x34, 0x12]).decodeNext = .ok (.movR16Imm16 .ax 0x1234) := by decide

theorem witness_StepRunsTheEncodedInstruction :
    (Instr.movR16Imm16 .ax 0x1234).wellFormed = true ∧
    (placed State.reset 0xFFFE#16 [0xB8, 0x34, 0x12]).cfg.accepts (.movR16Imm16 .ax 0x1234) = true ∧
    ((List.range 3).all (fun k => (placed State.reset 0xFFFE#16 [0xB8, 0x34, 0x12]).fetchByte k ==
      (encode Config.default (.movR16Imm16 .ax 0x1234)).getD k 0#8)) = true ∧
    (Instr.movR16Imm16 .ax 0x1234).length = 3 := by decide

/-- Both outcomes of a step occur, with and without an event. -/
theorem witness_StepHasTwoOutcomes :
    after (step booted) (fun t => t.events) = some [.print 0x00#8] ∧
    after (step (placed State.reset 0x0100#16 [0x40])) (fun t => t.events) = some [] ∧
    faultOf (step (placed State.reset 0x0100#16 [0xF4])) = some (.unrecognizedOpcode 0xF4#8 0x0100#16) := by decide

/-- Reset memory and a step that stores: the premises of the invariant statements. -/
theorem witness_StepKeepsMemoryCanonical :
    Memory.wf booted.mem = true ∧ (after (step booted) (fun t => Memory.wf t.mem)) = some true := by decide

theorem witness_BootedMemoryIsCanonical :
    (boot Config.default [0xB8, 0x34, 0x12]).isSome = true ∧
    (boot Config.default [0xB8, 0x34, 0x12]).map (fun s => (s.ip, s.byteAt 0x0102#16, s.wordAt 0x4190#16)) =
      some (0x0100#16, 0x12#8, 0xCF90#16) := by decide

theorem witness_StepKeepsDataSegmentsAndParameters :
    after (step booted) (fun t => (t.ds, t.es, t.ss)) = some (0#16, 0#16, 0#16) := by decide

theorem witness_OnlyIntAndIretChangeCsAndIdf :
    (∀ n, (Instr.mulRm8 (.reg .bl)) ≠ .int n) ∧ (Instr.mulRm8 (.reg .bl)) ≠ .iret ∧
    after (exec (.mulRm8 (.reg .bl)) (State.reset.farJump 0xF400#16 0#16)) (fun t => (t.cs, t.flags.idf)) =
      some (0xF400#16, false) := by
  refine ⟨fun n h => (nomatch h), by decide, by decide⟩

/-- The default `EVENT_OF` does not ask about ES; one that prints where ES is 0x1234 does. -/
theorem witness_EsIsNeverRead :
    eventAsksSeg .es State.reset.cfg.eventChoice = false ∧
    eventAsksSeg .es (.test (.segIs .es 0x1234#16) (.print 0x45#8) .nothing) = true := by decide

/-- The ends of the listed ranges 06 to 27 and F8 to FD, and their neighbours. -/
theorem witness_UnrecognisedFirstBytesAreTheListed157 :
    [0x06, 0x27, 0xF8, 0xFD].all (fun b => decide (decoded [b] = .error (.unrecognizedOpcode b))) = true ∧
    [0x05, 0x28, 0xF7, 0xFE].all (fun b => decide (decoded [b] = .error (.unrecognizedOpcode b))) = false ∧
    [0x05, 0x28, 0xF7, 0xFE].any (fun b => decide (decoded [b] = .error (.unrecognizedOpcode b))) = false := by decide

/-- A base that is not BP: `8B 47 00` and `8B 07` read the same word and differ by one in `pc` (R120). -/
theorem witness_RedundantEncodingsMeanTheSame :
    Base.bx ≠ .bp ∧
    decoded [0x8B, 0x47, 0x00] = .ok (.movR16Rm16 .ax (.mem (.disp8 .bx 0x00))) ∧
    decoded [0x8B, 0x07] = .ok (.movR16Rm16 .ax (.mem (.base .bx))) ∧
    [MemOp.disp8 .bx 0x00, .base .bx].map (fun m => after (exec (.movR16Rm16 .ax (.mem m))
      ((State.reset.setReg16 .bx 0x0200#16).setWord 0x0200#16 0xABCD#16)) (fun t => (t.reg16 .ax, t.ip))) =
      [some (0xABCD#16, 0x0103#16), some (0xABCD#16, 0x0102#16)] := by decide

theorem witness_IdfMasksNothing :
    (∀ n, Instr.pushR16 .ax ≠ .int n) ∧ Instr.pushR16 .ax ≠ .iret := by
  exact ⟨fun n h => (nomatch h), by decide⟩

/-- The premises `q ≠ x` and `q ≠ r`: SP and CX beside AX, AH beside AL; and both halves of 0x1234 (R23). -/
theorem witness_ByteRegistersAreHalvesOfWords :
    Reg16.sp ≠ .ax ∧ Reg16.cx ≠ .ax ∧ Reg8.ah ≠ .al ∧
    (State.reset.setReg16 .ax 0x1234#16).reg8 .al = 0x34#8 ∧ (State.reset.setReg16 .ax 0x1234#16).reg8 .ah = 0x12#8 ∧
    ((State.reset.setReg16 .ax 0x1234#16).setReg8 .ah 0xFF#8).reg16 .ax = 0xFF34#16 := by decide

/-- A word at the top of memory: its bytes are 0xFFFF and 0x0000, and 0x0001 and 0xFFFE are outside. -/
theorem witness_WordsInMemoryAreLittleEndian :
    0x0000#16 ∈ wordSpan 0xFFFF#16 ∧ 0x0001#16 ∉ wordSpan 0xFFFF#16 ∧ 0xFFFE#16 ∉ wordSpan 0xFFFF#16 := by decide

/-- The displacement bytes where the two clauses meet, and the wrap of R107's example. -/
theorem witness_MemoryOperandAddress :
    (0x7F#8).toNat < 0x80 ∧ 0x80 ≤ (0x80#8).toNat ∧
    (State.reset.setReg16 .bp 0x0300#16).operandAddress (.disp8 .bp 0x7F) = 0x037F#16 ∧
    (State.reset.setReg16 .bp 0x0300#16).operandAddress (.disp8 .bp 0x80) = 0x0280#16 ∧
    ((State.reset.setReg16 .bx 0xFFFF#16).setReg16 .si 0x0002#16).operandAddress (.base .bxSi) = 0x0001#16 := by decide

/-- The three cases of `DIV r/m8`: a zero divisor, the first quotient that does not fit, the last that does. -/
theorem witness_DivByteQuotientAndRemainder :
    faultOf (exec (.divRm8 (.reg .cl)) (State.reset.setReg16 .ax 0x0078#16)) = some (.divideError 0xF6#8 0x0100#16) ∧
    faultOf (exec (.divRm8 (.reg .cl)) ((State.reset.setReg16 .ax 0x0100#16).setReg16 .cx 0x0001#16)) =
      some (.divideError 0xF6#8 0x0100#16) ∧
    after (exec (.divRm8 (.reg .cl)) ((State.reset.setReg16 .ax 0x00FF#16).setReg16 .cx 0x0001#16))
      (fun t => t.reg16 .ax) = some 0x00FF#16 := by decide

theorem witness_DivWordQuotientAndRemainder :
    faultOf (exec (.divRm16 (.reg .bx)) (State.reset.setReg16 .ax 0x0078#16)) = some (.divideError 0xF7#8 0x0100#16) ∧
    faultOf (exec (.divRm16 (.reg .bx)) ((State.reset.setReg16 .dx 0x0001#16).setReg16 .bx 0x0001#16)) =
      some (.divideError 0xF7#8 0x0100#16) ∧
    after (exec (.divRm16 (.reg .bx)) ((State.reset.setReg16 .ax 0xFFFF#16).setReg16 .bx 0x0001#16))
      (fun t => (t.reg16 .ax, t.reg16 .dx)) = some (0xFFFF#16, 0x0000#16) := by decide

/-- Quotients -128 and 128, which stop, and -127, which completes. -/
theorem witness_IdivByteQuotientAndRemainder :
    faultOf (exec (.idivRm8 (.reg .cl)) (State.reset.setReg16 .ax 0x0078#16)) = some (.divideError 0xF6#8 0x0100#16) ∧
    faultOf (exec (.idivRm8 (.reg .cl)) ((State.reset.setReg16 .ax 0xFF80#16).setReg16 .cx 0x0001#16)) =
      some (.divideError 0xF6#8 0x0100#16) ∧
    faultOf (exec (.idivRm8 (.reg .cl)) ((State.reset.setReg16 .ax 0x0080#16).setReg16 .cx 0x0001#16)) =
      some (.divideError 0xF6#8 0x0100#16) ∧
    after (exec (.idivRm8 (.reg .cl)) ((State.reset.setReg16 .ax 0xFF81#16).setReg16 .cx 0x0001#16))
      (fun t => t.reg16 .ax) = some 0x0081#16 := by decide

theorem witness_IdivWordQuotientAndRemainder :
    faultOf (exec (.idivRm16 (.reg .bx)) (State.reset.setReg16 .ax 0x0078#16)) = some (.divideError 0xF7#8 0x0100#16) ∧
    faultOf (exec (.idivRm16 (.reg .bx)) ((State.reset.setReg16 .ax 0x8000#16).setReg16 .bx 0x0001#16)) =
      some (.divideError 0xF7#8 0x0100#16) ∧
    after (exec (.idivRm16 (.reg .bx)) (((State.reset.setReg16 .dx 0xFFFF#16).setReg16 .ax 0x8001#16).setReg16 .bx
      0x0001#16)) (fun t => (t.reg16 .ax, t.reg16 .dx)) = some (0x8001#16, 0x0000#16) := by decide

/-- The flags `SUB` leaves for 0x80 - 0x01, whose signed difference is out of range, and for 0x0005 - 0x0007. -/
theorem witness_JccAfterSubComparesOperands :
    DifferenceFlags (State.reset.setFlags ⟨false, false, false, true, false⟩)
      (State.reset.setFlags ⟨false, false, false, true, false⟩) 0x80#8 0x01#8 ∧
    DifferenceFlags (State.reset.setFlags ⟨true, false, true, false, false⟩)
      (State.reset.setFlags ⟨true, false, true, false, false⟩) 0x0005#16 0x0007#16 := by
  unfold DifferenceFlags
  decide

theorem witness_PushStoresBelowTheTop : Reg16.bp ≠ .sp ∧ Reg16.ax ≠ .sp := by decide

theorem witness_PopLoadsTheTop :
    Reg16.ax ≠ .sp ∧
    after (exec (.popR16 .sp) (State.reset.setWord 0xFFFE#16 0x1234#16)) (fun t => t.reg16 .sp) = some 0x1234#16 := by
  decide

theorem witness_PushThenPopMovesTheWord :
    Reg16.ax ≠ .sp ∧ Reg16.dx ≠ .sp ∧
    after (exec (.pushR16 .ax) (State.reset.setReg16 .ax 0xBEEF#16)) (fun t => after (exec (.popR16 .dx) t)
      (fun u => u.reg16 .dx)) = some (some 0xBEEF#16) := by decide

theorem witness_IntEntersTheHandler :
    ((0x10#8 : Byte) = 0x10#8 ∨ (0x10#8 : Byte) = 0x21#8) ∧ ((0x21#8 : Byte) = 0x10#8 ∨ (0x21#8 : Byte) = 0x21#8) ∧
    0xFFF8#16 ∈ interruptFrame State.reset ∧ 0xFFFD#16 ∈ interruptFrame State.reset ∧
    0xFFF7#16 ∉ interruptFrame State.reset ∧ 0xFFFE#16 ∉ interruptFrame State.reset := by decide

/-- The vectors beside the two known ones. -/
theorem witness_UnknownVectorIsFatal :
    [0x0F#8, 0x11#8, 0x20#8, 0x22#8].map (fun n => faultOf (exec (.int n) State.reset)) =
      [0x0F#8, 0x11#8, 0x20#8, 0x22#8].map (fun n => some (.unknownInterruptVector 0xCD#8 0x0100#16 n)) ∧
    after (exec (.int 0x10) State.reset) (fun t => t.ip) = some 0x0190#16 := by decide

theorem witness_DefaultEventPrintsDl :
    booted.cfg.eventChoice = Config.default.eventChoice ∧
    after (exec (.int 0x21) (booted.setReg8 .dl 0x41#8)) (fun t => t.events) = some [.print 0x41#8] ∧
    after (exec (.int 0x10) (booted.setReg8 .dl 0x41#8)) (fun t => t.events) = some [] := by decide

/-- Another choice of the open parameter `EVENT_OF` (00_scope.md R4): a constant character under a condition on
registers, a segment register and flags, and a register's character otherwise. -/
def otherEvents : EventChoice :=
  .test (.vectorIs 0x10#8)
    (.test (.reg16Is .cx 0x0007#16) (.test (.segIs .ss 0x0000#16) (.test .idfSet .nothing (.print 0x3F#8)) .nothing)
      (.printReg .bh))
    .nothing

theorem test_event_of_is_a_parameter :
    [0x0007#16, 0x0008#16].map (fun cx => after
      (exec (.int 0x10) (((State.resetWith { Config.default with eventChoice := otherEvents }).setReg16 .cx cx).setReg8
        .bh 0x41#8)) (fun t => t.events)) = [some [.print 0x3F#8], some [.print 0x41#8]] ∧
    after (exec (.int 0x21) (State.resetWith { Config.default with eventChoice := otherEvents })) (fun t => t.events) =
      some [] := by decide

theorem witness_StubbedIntCostsThreeSteps :
    booted.decodeNext = .ok (.int 0x21) ∧ booted.handlerOffset 0x21 = some 0x0200#16 ∧
    recognisedFirstByte booted.cfg.markerOpcode = false ∧
    booted.byteAt (booted.phys booted.cfg.biosSeg 0x0200#16) = booted.cfg.markerOpcode ∧
    booted.byteAt (booted.phys booted.cfg.biosSeg (0x0200#16 + 1#16)) = 0xCF#8 ∧
    booted.phys booted.cfg.biosSeg 0x0200#16 ∉ interruptFrame booted ∧
    booted.phys booted.cfg.biosSeg (0x0200#16 + 1#16) ∉ interruptFrame booted := by decide

/-- A load that wraps, and the two sides of the length limit. -/
theorem witness_LoadCopiesTheProgram :
    (State.reset.load 0xFFFF#16 [0x40, 0x41]).map (fun s => (s.byteAt 0xFFFF#16, s.byteAt 0x0000#16)) =
      some (0x40#8, 0x41#8) ∧
    (List.replicate 65536 0#8).length ≤ 65536 ∧ ¬(List.replicate 65537 0#8).length ≤ 65536 := by
  refine ⟨by decide, ?_, ?_⟩
  · rw [List.length_replicate]
  · rw [List.length_replicate]; omega

/-- The three ends of a run. -/
theorem witness_RunEndsAtStopOrAtAFatalStep :
    run 0x0100#16 0 State.reset = .completed State.reset ∧
    run 0x0200#16 0 State.reset = .outOfBudget State.reset ∧
    run 0x0200#16 1 (placed State.reset 0x0100#16 [0xF4]) =
      .failed (.unrecognizedOpcode 0xF4#8 0x0100#16) (placed State.reset 0x0100#16 [0xF4]) := by decide

end Sys2Proof.Tests
end

section
/-! PROOFS of the statements of spec/10_state.md: the 8-bit registers as halves of the first four 16-bit registers
(R22, R23). -/

namespace Sys2Proof.Machine

/-- The frame of a byte-register write outside the general registers. -/
theorem State.setReg8_with_regs (s : State) (r : Reg8) (v : Byte) : { s.setReg8 r v with regs := s.regs } = s := rfl

theorem State.reg8_of_isHigh_eq_false (s : State) {r : Reg8} (h : isHigh r = false) :
    s.reg8 r = lo8 (s.reg16 (whole r)) := by
  simp [State.reg8_eq, h]

theorem State.reg8_of_isHigh (s : State) {r : Reg8} (h : isHigh r = true) :
    s.reg8 r = hi8 (s.reg16 (whole r)) := by
  simp [State.reg8_eq, h]

theorem State.reg16_setReg8_of_isHigh_eq_false (s : State) {r : Reg8} (v : Byte) (h : isHigh r = false) :
    (s.setReg8 r v).reg16 (whole r) = mkWord (hi8 (s.reg16 (whole r))) v := by
  simp [State.reg16_setReg8_whole, h]

theorem State.reg16_setReg8_of_isHigh (s : State) {r : Reg8} (v : Byte) (h : isHigh r = true) :
    (s.setReg8 r v).reg16 (whole r) = mkWord v (lo8 (s.reg16 (whole r))) := by
  simp [State.reg16_setReg8_whole, h]

/-- Two 8-bit registers that the tables `whole` and `isHigh` make the low and the high part of one word are its
halves. -/
theorem halvesOf_of_whole_eq (s : State) (v : Byte) {low high : Reg8} {x : Reg16} (hlow : isHigh low = false)
    (hhigh : isHigh high = true) (lowOf : whole low = x) (highOf : whole high = x) : HalvesOf s v low high x := by
  subst lowOf
  refine ⟨s.reg8_of_isHigh_eq_false hlow, ?_, s.reg16_setReg8_of_isHigh_eq_false v hlow, ?_, fun q hq => ⟨?_, ?_⟩⟩
  · rw [← highOf]; exact s.reg8_of_isHigh hhigh
  · rw [← highOf]; exact s.reg16_setReg8_of_isHigh v hhigh
  · exact s.reg16_setReg8_ne v hq
  · exact s.reg16_setReg8_ne v (highOf ▸ hq)

/-- Settles O18: each pair by the tables of R22, each write by the laws of byte-register writes. -/
theorem byteRegistersAreHalvesOfWords : Obligations.ByteRegistersAreHalvesOfWords := by
  intro s v
  refine ⟨?ax, ?cx, ?dx, ?bx, fun r => ⟨?same, fun q hq => ?others, ?frame⟩⟩
  case ax | cx | dx | bx => exact halvesOf_of_whole_eq s v rfl rfl rfl rfl
  case same => exact s.reg8_setReg8_same r v
  case others => exact s.reg8_setReg8_ne v hq
  case frame => exact s.setReg8_with_regs r v

end Sys2Proof.Machine
end

section
/-! PROOFS of the statements of spec/30_encoding.md: the first bytes outside the map (R114, R116) and the address of a
memory operand (R105 to R108). -/

namespace Sys2Proof

/-! ### First bytes outside the map -/

/-- The rows of the `+r` forms and of `MOV r, imm`, which the five high bits of the opcode byte name, are in the
map. -/
theorem recognisedFirstByte_of_high_mem {b : Byte}
    (row : (b.extractLsb' 3 5).toNat ∈ [0x08, 0x09, 0x0A, 0x0B, 0x16, 0x17]) :
    recognisedFirstByte b = true := by
  revert b; decide

/-- The number of an unrecognised byte is in no row of the map. -/
theorem toNat_ne_of_recognisedFirstByte_eq_false {b : Byte} (h : recognisedFirstByte b = false) {n : Nat}
    (row : recognisedFirstByte (BitVec.ofNat 8 n) = true) : b.toNat ≠ n := by
  rintro rfl
  rw [BitVec.ofNat_toNat, BitVec.setWidth_eq, h] at row
  exact Bool.false_ne_true row

/-- A first byte outside the map reaches no row of the decoder but the last: it is the marker or nothing
(30_encoding.md R116, R119). -/
theorem decode_of_recognisedFirstByte_eq_false (c : Config) {w : Nat → Byte} (h : recognisedFirstByte (w 0) = false) :
    decode c w = if w 0 = c.markerOpcode then .ok .nop else .error (.unrecognizedOpcode (w 0)) := by
  have notHigh : ((w 0).extractLsb' 3 5).toNat ∉ [0x08, 0x09, 0x0A, 0x0B, 0x16, 0x17] := fun row =>
    Bool.false_ne_true (h ▸ recognisedFirstByte_of_high_mem row)
  unfold decode
  split
  case h_7 =>
    split
    case h_51 => rfl
    all_goals exact absurd ‹(w 0).toNat = _› (toNat_ne_of_recognisedFirstByte_eq_false h (by decide))
  all_goals exact absurd (by simp [‹((w 0).extractLsb' 3 5).toNat = _›]) notHigh

/-! ### The displacement byte -/

/-- A displacement byte below 0x80 is extended with zeros. -/
theorem sext16_of_lt {d : Byte} (h : d.toNat < 0x80) : sext16 d = BitVec.ofNat 16 d.toNat := by
  revert d; decide

/-- A displacement byte from 0x80 on counts downwards from 256. -/
theorem sext16_of_le {d : Byte} (h : 0x80 ≤ d.toNat) : sext16 d = -BitVec.ofNat 16 (256 - d.toNat) := by
  revert d; decide

end Sys2Proof

namespace Sys2Proof.Machine

/-- Where the decoder rejects the bytes at CS:IP, the step is the report of that reason. -/
theorem step_of_decodeNext_eq_error {s : State} {e : DecodeError} (h : s.decodeNext = .error e) :
    step s = .fault (decodeFault s.ip e) :=
  (step_fault_iff s _).mpr (.inl ⟨e, h, rfl⟩)

/-- Settles O5: the decoder reaches its last row, and the byte there is not the marker. -/
theorem unrecognisedFirstByteIsFatal : Obligations.UnrecognisedFirstByteIsFatal := by
  intro s unrecognised notMarker
  have rejected : s.decodeNext = .error (.unrecognizedOpcode (s.fetchByte 0)) := by
    rw [State.decodeNext, decode_of_recognisedFirstByte_eq_false s.cfg unrecognised, if_neg notMarker]
  exact step_of_decodeNext_eq_error rejected

/-! ### The address of a memory operand -/

/-- SS for the three bases that use BP, DS for the other five (30_encoding.md R107). -/
theorem State.seg_segment (s : State) (b : Base) :
    s.seg (Base.segment b) = if b = .bpSi ∨ b = .bpDi ∨ b = .bp then s.ss else s.ds := by
  cases b <;> rfl

theorem State.operandAddress_disp8_of_lt (s : State) (b : Base) {d : Byte} (h : d.toNat < 0x80) :
    s.operandAddress (.disp8 b d) = s.phys (s.seg (Base.segment b)) (s.baseValue b + BitVec.ofNat 16 d.toNat) := by
  rw [← sext16_of_lt h]; rfl

theorem State.operandAddress_disp8_of_le (s : State) (b : Base) {d : Byte} (h : 0x80 ≤ d.toNat) :
    s.operandAddress (.disp8 b d) =
      s.phys (s.seg (Base.segment b)) (s.baseValue b - BitVec.ofNat 16 (256 - d.toNat)) := by
  rw [BitVec.sub_eq_add_neg, ← sext16_of_le h]; rfl

/-- Settles O21: the statement's base and segment are the model's, by the tables of R105 and R107; an 8-bit
displacement goes by its sign, and the accesses of R108 are the model's definitions. -/
theorem memoryOperandAddress : Obligations.MemoryOperandAddress := by
  intro s off d v d8 u b m r8 r16 base seg
  have hbase : base = s.baseValue b := by cases b <;> rfl
  have hseg : seg = s.seg (Base.segment b) := (s.seg_segment b).symm
  rw [hbase, hseg]
  refine ⟨rfl, rfl, ?positive, ?negative, rfl, ?access⟩
  case positive => exact s.operandAddress_disp8_of_lt b
  case negative => exact s.operandAddress_disp8_of_le b
  case access => exact ⟨rfl, rfl, rfl, rfl, rfl, rfl, rfl, rfl⟩

end Sys2Proof.Machine
end

section
/-! PROOFS of the statements of spec/40_mov.md: every form of `MOV` writes the source's value to one `r/m` operand
and moves `pc` past its own bytes (R150). -/

namespace Sys2Proof.Machine

open Laws

/-! ### The byte forms -/

/-- An instruction of the given bytes whose execution is the write of a byte operand and the move past the
instruction copies that byte: the flags, the frame and `pc` are those of the write, and the bytes are as many as the
length says. -/
theorem copiesByte_of_exec_eq_write {s : State} {i : Instr} {bytes : List Byte} {dst : RM8} {v : Byte}
    (len : EncodedLength.Statement i) (code : encode s.cfg i = bytes)
    (run : exec i s = .next ((s.writeRm8 dst v).advance i.length)) : CopiesByte s i bytes dst v := by
  have past : i.length = bytes.length := by rw [← code, (len s.cfg).1]
  refine ⟨code, _, run, ?holds, ?flags, ?pc, ?frame⟩
  case holds => exact (holds8_writeRm8 s dst v).advance _
  case flags => rw [State.advance_flags, State.writeRm8_flags]
  case pc => rw [State.advance_ip, State.pcAfter_writeRm8, past]
  case frame => exact (frame_writeRm8 s dst v).advance _

/-- Settles O24: each byte form runs as the write of its destination, a register or a direct offset being the `r/m`
operand of that name, with the address computed before the write. -/
theorem movCopiesByte : Obligations.MovCopiesByte := by
  intro s rm r imm off
  refine ⟨?movRm8R8, ?movR8Rm8, ?movAlOff, ?movOffAl, ?movR8Imm8, ?movRm8Imm8⟩
  case movRm8R8 => exact copiesByte_of_exec_eq_write (EncodedLength.movRm8R8 rm r) rfl rfl
  case movR8Rm8 => exact copiesByte_of_exec_eq_write (EncodedLength.movR8Rm8 r rm) rfl rfl
  case movAlOff => exact copiesByte_of_exec_eq_write (EncodedLength.movAlOff off) rfl rfl
  case movOffAl => exact copiesByte_of_exec_eq_write (EncodedLength.movOffAl off) rfl rfl
  case movR8Imm8 => exact copiesByte_of_exec_eq_write (EncodedLength.movR8Imm8 r imm) rfl rfl
  case movRm8Imm8 => exact copiesByte_of_exec_eq_write (EncodedLength.movRm8Imm8 rm imm) rfl rfl

/-! ### The word forms -/

/-- The same for the write of a word operand. -/
theorem copiesWord_of_exec_eq_write {s : State} {i : Instr} {bytes : List Byte} {dst : RM16} {v : Word}
    (len : EncodedLength.Statement i) (code : encode s.cfg i = bytes)
    (run : exec i s = .next ((s.writeRm16 dst v).advance i.length)) : CopiesWord s i bytes dst v := by
  have past : i.length = bytes.length := by rw [← code, (len s.cfg).1]
  refine ⟨code, _, run, ?holds, ?flags, ?pc, ?frame⟩
  case holds => exact (holds16_writeRm16 s dst v).advance _
  case flags => rw [State.advance_flags, State.writeRm16_flags]
  case pc => rw [State.advance_ip, State.pcAfter_writeRm16, past]
  case frame => exact (frame_writeRm16 s dst v).advance _

/-- Settles O25: each word form runs as the write of its destination, as the byte forms do. -/
theorem movCopiesWord : Obligations.MovCopiesWord := by
  intro s rm r imm off
  refine ⟨?movRm16R16, ?movR16Rm16, ?movAxOff, ?movOffAx, ?movR16Imm16, ?movRm16Imm16⟩
  case movRm16R16 => exact copiesWord_of_exec_eq_write (EncodedLength.movRm16R16 rm r) rfl rfl
  case movR16Rm16 => exact copiesWord_of_exec_eq_write (EncodedLength.movR16Rm16 r rm) rfl rfl
  case movAxOff => exact copiesWord_of_exec_eq_write (EncodedLength.movAxOff off) rfl rfl
  case movOffAx => exact copiesWord_of_exec_eq_write (EncodedLength.movOffAx off) rfl rfl
  case movR16Imm16 => exact copiesWord_of_exec_eq_write (EncodedLength.movR16Imm16 r imm) rfl rfl
  case movRm16Imm16 => exact copiesWord_of_exec_eq_write (EncodedLength.movRm16Imm16 rm imm) rfl rfl

end Sys2Proof.Machine
end

section
/-! PROOFS of the statements of spec/41_add_sub_mul_div.md, sections 1 to 3: every form of `ADD` and `SUB` is one
ALU function put to an `r/m` destination and a second operand, and moves `pc` past its own bytes (R180 to R182). -/

namespace Sys2Proof.Machine

open Laws

/-! ### The flags -/

/-- The flags of `ADD_n`, written over those of `s`, are the ones a sum is said to leave (R180). -/
theorem sumFlags_of_flags_eq {n : Nat} {s t : State} {a b : BitVec n}
    (flags : t.flags = s.flags.ofAlu (aluAdd a b)) : SumFlags s t a b := by
  rw [SumFlags, flags]
  exact ⟨rfl, rfl, rfl, aluAdd_of a b, rfl⟩

/-- The flags of `SUB_n`, written over those of `s`, are the ones a difference is said to leave (R181). -/
theorem differenceFlags_of_flags_eq {n : Nat} {s t : State} {a b : BitVec n}
    (flags : t.flags = s.flags.ofAlu (aluSub a b)) : DifferenceFlags s t a b := by
  rw [DifferenceFlags, flags]
  exact ⟨rfl, rfl, rfl, aluSub_of a b, rfl⟩

/-! ### The byte forms -/

theorem holds8_arithRm8 (alu : Byte → Byte → Alu 8) (dst : RM8) (b : Byte) (s : State) :
    Holds8 s (arithRm8 alu dst b s) dst (alu (s.readRm8 dst) b).result :=
  (holds8_writeRm8 s dst _).setFlags _

@[simp] theorem arithRm8_flags (alu : Byte → Byte → Alu 8) (dst : RM8) (b : Byte) (s : State) :
    (arithRm8 alu dst b s).flags = s.flags.ofAlu (alu (s.readRm8 dst) b) := rfl

@[simp] theorem State.pcAfter_arithRm8 (alu : Byte → Byte → Alu 8) (dst : RM8) (b : Byte) (s : State) (k : Nat) :
    (arithRm8 alu dst b s).pcAfter k = s.pcAfter k := by
  rw [arithRm8, State.pcAfter_setFlags, State.pcAfter_writeRm8]

theorem frame_arithRm8 (alu : Byte → Byte → Alu 8) (dst : RM8) (b : Byte) (s : State) :
    Frame s (arithRm8 alu dst b s) (destRegs8 dst) (storedBytes8 s dst) :=
  (frame_writeRm8 s dst _).setFlags _

/-- What a step that is byte arithmetic and the move past the instruction leaves, whatever the ALU function. -/
theorem exists_next_of_exec_eq_arithRm8 {s : State} {i : Instr} {bytes : List Byte} {dst : RM8} {b : Byte}
    {alu : Byte → Byte → Alu 8} (len : EncodedLength.Statement i) (code : encode s.cfg i = bytes)
    (run : exec i s = .next ((arithRm8 alu dst b s).advance i.length)) :
    ∃ t, exec i s = .next t ∧ Holds8 s t dst (alu (s.readRm8 dst) b).result ∧
      t.flags = s.flags.ofAlu (alu (s.readRm8 dst) b) ∧ t.ip = s.pcAfter bytes.length ∧
      Frame s t (destRegs8 dst) (storedBytes8 s dst) := by
  have past : i.length = bytes.length := by rw [← code, (len s.cfg).1]
  refine ⟨_, run, ?holds, ?flags, ?pc, ?frame⟩
  case holds => exact (holds8_arithRm8 alu dst b s).advance _
  case flags => rw [State.advance_flags, arithRm8_flags]
  case pc => rw [State.advance_ip, State.pcAfter_arithRm8, past]
  case frame => exact (frame_arithRm8 alu dst b s).advance _

theorem addsByte_of_exec_eq_arith {s : State} {i : Instr} {bytes : List Byte} {dst : RM8} {b : Byte}
    (len : EncodedLength.Statement i) (code : encode s.cfg i = bytes)
    (run : exec i s = .next ((arithRm8 aluAdd dst b s).advance i.length)) : AddsByte s i bytes dst b := by
  obtain ⟨t, next, holds, flags, pc, frame⟩ := exists_next_of_exec_eq_arithRm8 len code run
  exact ⟨code, t, next, holds, sumFlags_of_flags_eq flags, pc, frame⟩

theorem subtractsByte_of_exec_eq_arith {s : State} {i : Instr} {bytes : List Byte} {dst : RM8} {b : Byte}
    (len : EncodedLength.Statement i) (code : encode s.cfg i = bytes)
    (run : exec i s = .next ((arithRm8 aluSub dst b s).advance i.length)) : SubtractsByte s i bytes dst b := by
  obtain ⟨t, next, holds, flags, pc, frame⟩ := exists_next_of_exec_eq_arithRm8 len code run
  exact ⟨code, t, next, holds, differenceFlags_of_flags_eq flags, pc, frame⟩

/-- Settles O26: each byte form runs as `ADD_8` on its destination, a register or AL being the `r/m` operand of that
name, with both operands read before the write. -/
theorem addByteForms : Obligations.AddByteForms := by
  intro s rm r imm
  refine ⟨?addRm8R8, ?addR8Rm8, ?addAlImm8, ?addRm8Imm8⟩
  case addRm8R8 => exact addsByte_of_exec_eq_arith (EncodedLength.addRm8R8 rm r) rfl rfl
  case addR8Rm8 => exact addsByte_of_exec_eq_arith (EncodedLength.addR8Rm8 r rm) rfl rfl
  case addAlImm8 => exact addsByte_of_exec_eq_arith (EncodedLength.addAlImm8 imm) rfl rfl
  case addRm8Imm8 => exact addsByte_of_exec_eq_arith (EncodedLength.addRm8Imm8 rm imm) rfl rfl

/-- Settles O28: each byte form runs as `SUB_8` on its destination. -/
theorem subByteForms : Obligations.SubByteForms := by
  intro s rm r imm
  refine ⟨?subRm8R8, ?subR8Rm8, ?subAlImm8, ?subRm8Imm8⟩
  case subRm8R8 => exact subtractsByte_of_exec_eq_arith (EncodedLength.subRm8R8 rm r) rfl rfl
  case subR8Rm8 => exact subtractsByte_of_exec_eq_arith (EncodedLength.subR8Rm8 r rm) rfl rfl
  case subAlImm8 => exact subtractsByte_of_exec_eq_arith (EncodedLength.subAlImm8 imm) rfl rfl
  case subRm8Imm8 => exact subtractsByte_of_exec_eq_arith (EncodedLength.subRm8Imm8 rm imm) rfl rfl

/-! ### The word forms -/

theorem holds16_arithRm16 (alu : Word → Word → Alu 16) (dst : RM16) (b : Word) (s : State) :
    Holds16 s (arithRm16 alu dst b s) dst (alu (s.readRm16 dst) b).result :=
  (holds16_writeRm16 s dst _).setFlags _

@[simp] theorem arithRm16_flags (alu : Word → Word → Alu 16) (dst : RM16) (b : Word) (s : State) :
    (arithRm16 alu dst b s).flags = s.flags.ofAlu (alu (s.readRm16 dst) b) := rfl

@[simp] theorem State.pcAfter_arithRm16 (alu : Word → Word → Alu 16) (dst : RM16) (b : Word) (s : State) (k : Nat) :
    (arithRm16 alu dst b s).pcAfter k = s.pcAfter k := by
  rw [arithRm16, State.pcAfter_setFlags, State.pcAfter_writeRm16]

theorem frame_arithRm16 (alu : Word → Word → Alu 16) (dst : RM16) (b : Word) (s : State) :
    Frame s (arithRm16 alu dst b s) (destRegs16 dst) (storedBytes16 s dst) :=
  (frame_writeRm16 s dst _).setFlags _

/-- The same for word arithmetic. -/
theorem exists_next_of_exec_eq_arithRm16 {s : State} {i : Instr} {bytes : List Byte} {dst : RM16} {b : Word}
    {alu : Word → Word → Alu 16} (len : EncodedLength.Statement i) (code : encode s.cfg i = bytes)
    (run : exec i s = .next ((arithRm16 alu dst b s).advance i.length)) :
    ∃ t, exec i s = .next t ∧ Holds16 s t dst (alu (s.readRm16 dst) b).result ∧
      t.flags = s.flags.ofAlu (alu (s.readRm16 dst) b) ∧ t.ip = s.pcAfter bytes.length ∧
      Frame s t (destRegs16 dst) (storedBytes16 s dst) := by
  have past : i.length = bytes.length := by rw [← code, (len s.cfg).1]
  refine ⟨_, run, ?holds, ?flags, ?pc, ?frame⟩
  case holds => exact (holds16_arithRm16 alu dst b s).advance _
  case flags => rw [State.advance_flags, arithRm16_flags]
  case pc => rw [State.advance_ip, State.pcAfter_arithRm16, past]
  case frame => exact (frame_arithRm16 alu dst b s).advance _

theorem addsWord_of_exec_eq_arith {s : State} {i : Instr} {bytes : List Byte} {dst : RM16} {b : Word}
    (len : EncodedLength.Statement i) (code : encode s.cfg i = bytes)
    (run : exec i s = .next ((arithRm16 aluAdd dst b s).advance i.length)) : AddsWord s i bytes dst b := by
  obtain ⟨t, next, holds, flags, pc, frame⟩ := exists_next_of_exec_eq_arithRm16 len code run
  exact ⟨code, t, next, holds, sumFlags_of_flags_eq flags, pc, frame⟩

theorem subtractsWord_of_exec_eq_arith {s : State} {i : Instr} {bytes : List Byte} {dst : RM16} {b : Word}
    (len : EncodedLength.Statement i) (code : encode s.cfg i = bytes)
    (run : exec i s = .next ((arithRm16 aluSub dst b s).advance i.length)) : SubtractsWord s i bytes dst b := by
  obtain ⟨t, next, holds, flags, pc, frame⟩ := exists_next_of_exec_eq_arithRm16 len code run
  exact ⟨code, t, next, holds, differenceFlags_of_flags_eq flags, pc, frame⟩

/-- Settles O27: each word form runs as `ADD_16` on its destination; the immediate byte of opcode 83 is extended to
the word of its signed reading. -/
theorem addWordForms : Obligations.AddWordForms := by
  intro s rm r imm imm8
  rw [← sext16_eq_ofInt]
  refine ⟨?addRm16R16, ?addR16Rm16, ?addAxImm16, ?addRm16Imm16, ?addRm16Imm8⟩
  case addRm16R16 => exact addsWord_of_exec_eq_arith (EncodedLength.addRm16R16 rm r) rfl rfl
  case addR16Rm16 => exact addsWord_of_exec_eq_arith (EncodedLength.addR16Rm16 r rm) rfl rfl
  case addAxImm16 => exact addsWord_of_exec_eq_arith (EncodedLength.addAxImm16 imm) rfl rfl
  case addRm16Imm16 => exact addsWord_of_exec_eq_arith (EncodedLength.addRm16Imm16 rm imm) rfl rfl
  case addRm16Imm8 => exact addsWord_of_exec_eq_arith (EncodedLength.addRm16Imm8 rm imm8) rfl rfl

/-- Settles O29: each word form runs as `SUB_16` on its destination; the immediate byte of opcode 83 is extended as
in `ADD`. -/
theorem subWordForms : Obligations.SubWordForms := by
  intro s rm r imm imm8
  rw [← sext16_eq_ofInt]
  refine ⟨?subRm16R16, ?subR16Rm16, ?subAxImm16, ?subRm16Imm16, ?subRm16Imm8⟩
  case subRm16R16 => exact subtractsWord_of_exec_eq_arith (EncodedLength.subRm16R16 rm r) rfl rfl
  case subR16Rm16 => exact subtractsWord_of_exec_eq_arith (EncodedLength.subR16Rm16 r rm) rfl rfl
  case subAxImm16 => exact subtractsWord_of_exec_eq_arith (EncodedLength.subAxImm16 imm) rfl rfl
  case subRm16Imm16 => exact subtractsWord_of_exec_eq_arith (EncodedLength.subRm16Imm16 rm imm) rfl rfl
  case subRm16Imm8 => exact subtractsWord_of_exec_eq_arith (EncodedLength.subRm16Imm8 rm imm8) rfl rfl

end Sys2Proof.Machine
end

section
/-! PROOFS of the statements of spec/42_inc_dec.md: every form of `INC` and `DEC` is one ALU function put to an
`r/m` destination and the constant 1, keeps CF, and moves `pc` past its own bytes (R230 to R236). -/

namespace Sys2Proof.Machine

open Laws

/-! ### The flags -/

/-- Adding 1 overflows exactly from the greatest signed value to the least. At width 1 it does not: there the word 1
reads as -1. -/
theorem aluAdd_one_of {n : Nat} (h : 1 < n) (a : BitVec n) :
    (aluAdd a 1#n).of = decide (a + 1#n = BitVec.intMin n) := by
  have edge : a + 1#n = BitVec.intMin n ↔ a.toInt = 2 ^ (n - 1) - 1 := by
    rw [← BitVec.intMax_add_one, BitVec.add_left_inj, ← BitVec.toInt_inj, BitVec.toInt_intMax]
  have low : -2 ^ (n - 1) ≤ a.toInt := a.le_toInt
  have high : a.toInt < 2 ^ (n - 1) := a.toInt_lt
  rw [Bool.eq_iff_iff, aluAdd_of, decide_eq_true_iff, edge, BitVec.toInt_one h]
  omega

/-- Subtracting 1 overflows exactly from the least signed value to the greatest. -/
theorem aluSub_one_of {n : Nat} (h : 1 < n) (a : BitVec n) :
    (aluSub a 1#n).of = decide (a - 1#n = BitVec.intMax n) := by
  have edge : a - 1#n = BitVec.intMax n ↔ a.toInt = -2 ^ (n - 1) := by
    rw [sub_eq_iff_eq_add, BitVec.intMax_add_one, ← BitVec.toInt_inj, BitVec.toInt_intMin_of_pos (by omega)]
  have low : -2 ^ (n - 1) ≤ a.toInt := a.le_toInt
  have high : a.toInt < 2 ^ (n - 1) := a.toInt_lt
  rw [Bool.eq_iff_iff, aluSub_of, decide_eq_true_iff, edge, BitVec.toInt_one h]
  omega

/-- The flags of `INC_n`, written over those of `s`, keep CF and set OF at the least signed value (R230). -/
theorem stepFlags_of_flags_eq_inc {n : Nat} {s t : State} {a : BitVec n} (h : 1 < n)
    (flags : t.flags = s.flags.ofIncDec (aluAdd a 1#n)) : StepFlags s t (a + 1#n) (BitVec.intMin n) := by
  rw [StepFlags, flags]
  exact ⟨rfl, rfl, aluAdd_one_of h a, rfl, rfl⟩

/-- The flags of `DEC_n`, written over those of `s`, keep CF and set OF at the greatest signed value (R230). -/
theorem stepFlags_of_flags_eq_dec {n : Nat} {s t : State} {a : BitVec n} (h : 1 < n)
    (flags : t.flags = s.flags.ofIncDec (aluSub a 1#n)) : StepFlags s t (a - 1#n) (BitVec.intMax n) := by
  rw [StepFlags, flags]
  exact ⟨rfl, rfl, aluSub_one_of h a, rfl, rfl⟩

/-! ### The forms -/

/-- What a step that is `INC_8` or `DEC_8` and the move past the instruction leaves. -/
theorem exists_next_of_exec_eq_stepRm8 {s : State} {i : Instr} {bytes : List Byte} {dst : RM8}
    {alu : Byte → Byte → Alu 8} (len : EncodedLength.Statement i) (code : encode s.cfg i = bytes)
    (run : exec i s = .next ((stepRm8 alu dst s).advance i.length)) :
    ∃ t, exec i s = .next t ∧ Holds8 s t dst (alu (s.readRm8 dst) 1#8).result ∧
      t.flags = s.flags.ofIncDec (alu (s.readRm8 dst) 1#8) ∧ t.ip = s.pcAfter bytes.length ∧
      Frame s t (destRegs8 dst) (storedBytes8 s dst) := by
  have past : i.length = bytes.length := by rw [← code, (len s.cfg).1]
  refine ⟨_, run, ?holds, ?flags, ?pc, ?frame⟩
  case holds => exact ((holds8_writeRm8 s dst _).setFlags _).advance _
  case flags => rw [State.advance_flags, stepRm8, State.setFlags_flags]
  case pc => rw [State.advance_ip, stepRm8, State.pcAfter_setFlags, State.pcAfter_writeRm8, past]
  case frame => exact ((frame_writeRm8 s dst _).setFlags _).advance _

/-- The same for `INC_16` and `DEC_16`. -/
theorem exists_next_of_exec_eq_stepRm16 {s : State} {i : Instr} {bytes : List Byte} {dst : RM16}
    {alu : Word → Word → Alu 16} (len : EncodedLength.Statement i) (code : encode s.cfg i = bytes)
    (run : exec i s = .next ((stepRm16 alu dst s).advance i.length)) :
    ∃ t, exec i s = .next t ∧ Holds16 s t dst (alu (s.readRm16 dst) 1#16).result ∧
      t.flags = s.flags.ofIncDec (alu (s.readRm16 dst) 1#16) ∧ t.ip = s.pcAfter bytes.length ∧
      Frame s t (destRegs16 dst) (storedBytes16 s dst) := by
  have past : i.length = bytes.length := by rw [← code, (len s.cfg).1]
  refine ⟨_, run, ?holds, ?flags, ?pc, ?frame⟩
  case holds => exact ((holds16_writeRm16 s dst _).setFlags _).advance _
  case flags => rw [State.advance_flags, stepRm16, State.setFlags_flags]
  case pc => rw [State.advance_ip, stepRm16, State.pcAfter_setFlags, State.pcAfter_writeRm16, past]
  case frame => exact ((frame_writeRm16 s dst _).setFlags _).advance _

theorem incrementsWord_of_exec_eq_step {s : State} {i : Instr} {bytes : List Byte} {dst : RM16}
    (len : EncodedLength.Statement i) (code : encode s.cfg i = bytes)
    (run : exec i s = .next ((stepRm16 aluAdd dst s).advance i.length)) :
    StepsWord s i bytes dst (s.readRm16 dst + 1#16) (BitVec.intMin 16) := by
  obtain ⟨t, next, holds, flags, pc, frame⟩ := exists_next_of_exec_eq_stepRm16 len code run
  exact ⟨code, t, next, holds, stepFlags_of_flags_eq_inc (by decide) flags, pc, frame⟩

theorem decrementsWord_of_exec_eq_step {s : State} {i : Instr} {bytes : List Byte} {dst : RM16}
    (len : EncodedLength.Statement i) (code : encode s.cfg i = bytes)
    (run : exec i s = .next ((stepRm16 aluSub dst s).advance i.length)) :
    StepsWord s i bytes dst (s.readRm16 dst - 1#16) (BitVec.intMax 16) := by
  obtain ⟨t, next, holds, flags, pc, frame⟩ := exists_next_of_exec_eq_stepRm16 len code run
  exact ⟨code, t, next, holds, stepFlags_of_flags_eq_dec (by decide) flags, pc, frame⟩

/-- Settles O37: each form runs as `INC_n` on its destination, a register being the `r/m` operand of that name; the
edge of the statement is the least signed value. -/
theorem incForms : Obligations.IncForms := by
  intro s r rm8 rm16
  refine ⟨?incR16, ?incRm8, ?incRm16⟩
  case incR16 => exact incrementsWord_of_exec_eq_step (EncodedLength.incR16 r) rfl rfl
  case incRm8 =>
    obtain ⟨t, next, holds, flags, pc, frame⟩ :=
      exists_next_of_exec_eq_stepRm8 (alu := aluAdd) (EncodedLength.incRm8 rm8) (s := s) rfl rfl
    exact ⟨rfl, t, next, holds, stepFlags_of_flags_eq_inc (by decide) flags, pc, frame⟩
  case incRm16 => exact incrementsWord_of_exec_eq_step (EncodedLength.incRm16 rm16) rfl rfl

/-- Settles O38: each form runs as `DEC_n` on its destination; the edge of the statement is the greatest signed
value. -/
theorem decForms : Obligations.DecForms := by
  intro s r rm8 rm16
  refine ⟨?decR16, ?decRm8, ?decRm16⟩
  case decR16 => exact decrementsWord_of_exec_eq_step (EncodedLength.decR16 r) rfl rfl
  case decRm8 =>
    obtain ⟨t, next, holds, flags, pc, frame⟩ :=
      exists_next_of_exec_eq_stepRm8 (alu := aluSub) (EncodedLength.decRm8 rm8) (s := s) rfl rfl
    exact ⟨rfl, t, next, holds, stepFlags_of_flags_eq_dec (by decide) flags, pc, frame⟩
  case decRm16 => exact decrementsWord_of_exec_eq_step (EncodedLength.decRm16 rm16) rfl rfl

end Sys2Proof.Machine
end

section
/-! PROOFS of the statements of spec/43_jumps_loop.md: every jump sets `pc` alone, to the target on its condition and
past its own bytes otherwise (R250, R253), and `LOOP` is a conditional jump after the count in CX (R268). -/

namespace Sys2Proof.Machine

open Laws

/-! ### The conditions on SF and OF, as the statements write them -/

theorem Flags.condJl_eq_decide (f : Flags) : f.condJl = decide (f.sf ≠ f.of) := by
  rw [Bool.eq_iff_iff, Flags.condJl, bne_iff_ne, decide_eq_true_iff]

theorem Flags.condJge_eq_decide (f : Flags) : f.condJge = decide (f.sf = f.of) := by
  rw [Bool.eq_iff_iff, Flags.condJge, beq_iff_eq, decide_eq_true_iff]

theorem Flags.condJle_eq_decide (f : Flags) : f.condJle = decide (f.zf = true ∨ f.sf ≠ f.of) := by
  rw [Bool.eq_iff_iff, Flags.condJle, Bool.or_eq_true, bne_iff_ne, decide_eq_true_iff]

theorem Flags.condJg_eq_decide (f : Flags) : f.condJg = decide (f.zf = false ∧ f.sf = f.of) := by
  rw [Bool.eq_iff_iff, Flags.condJg, Bool.and_eq_true, Bool.not_eq_true', beq_iff_eq, decide_eq_true_iff]

/-! ### The jumps -/

/-- A conditional jump sets `pc` once, and its condition chooses the value only. -/
theorem condJump_eq_next_jump (cond : Bool) (n : Nat) (rel : Byte) (s : State) :
    condJump cond n rel s = .next (s.jump (if cond then s.relTarget n (sext16 rel) else s.pcAfter n)) := by
  cases cond <;> rfl

/-- An instruction of the given bytes whose execution is one write of `pc` transfers control: the write keeps the
flags and every frame, and the bytes are as many as the length says. -/
theorem transfers_of_exec_eq_jump {s : State} {i : Instr} {bytes : List Byte} {taken : Bool} {d : Word}
    (len : EncodedLength.Statement i) (code : encode s.cfg i = bytes)
    (run : exec i s = .next (s.jump (if taken then s.relTarget i.length d else s.pcAfter i.length))) :
    Transfers s i bytes taken d := by
  have past : i.length = bytes.length := by rw [← code, (len s.cfg).1]
  refine ⟨code, _, run, ?pc, ?flags, ?frame⟩
  case pc => rw [State.jump_ip, State.relTarget, past]
  case flags => rw [State.jump_flags]
  case frame => exact (Frame.refl s).jump _

/-- The same for a conditional jump whose condition, as the model computes it, is `taken`. -/
theorem transfers_of_exec_eq_condJump {s : State} {i : Instr} {bytes : List Byte} {cond taken : Bool} {rel : Byte}
    (len : EncodedLength.Statement i) (code : encode s.cfg i = bytes) (run : exec i s = condJump cond i.length rel s)
    (condition : cond = taken) : Transfers s i bytes taken (BitVec.ofInt 16 rel.toInt) := by
  rw [← sext16_eq_ofInt, ← condition]
  exact transfers_of_exec_eq_jump len code (run.trans (condJump_eq_next_jump ..))

/-- Settles O39: each form is one write of `pc`, always to the target; the byte is extended as the statement reads
it. -/
theorem jmpTargets : Obligations.JmpTargets := by
  intro s rel rel16
  rw [← sext16_eq_ofInt]
  refine ⟨?jmpRel8, ?jmpRel16⟩
  case jmpRel8 => exact transfers_of_exec_eq_jump (EncodedLength.jmpRel8 rel) rfl rfl
  case jmpRel16 => exact transfers_of_exec_eq_jump (EncodedLength.jmpRel16 rel16) rfl rfl

/-- Settles O40: each jump runs as the conditional jump on the condition of its name, which the model writes as the
statement does. -/
theorem jccOnOverflowCarryZero : Obligations.JccOnOverflowCarryZero := by
  intro s rel
  refine ⟨?jo, ?jno, ?jc, ?jnc, ?jz, ?jnz, ?jna, ?ja⟩
  case jo => exact transfers_of_exec_eq_condJump (EncodedLength.jo rel) rfl rfl rfl
  case jno => exact transfers_of_exec_eq_condJump (EncodedLength.jno rel) rfl rfl rfl
  case jc => exact transfers_of_exec_eq_condJump (EncodedLength.jc rel) rfl rfl rfl
  case jnc => exact transfers_of_exec_eq_condJump (EncodedLength.jnc rel) rfl rfl rfl
  case jz => exact transfers_of_exec_eq_condJump (EncodedLength.jz rel) rfl rfl rfl
  case jnz => exact transfers_of_exec_eq_condJump (EncodedLength.jnz rel) rfl rfl rfl
  case jna => exact transfers_of_exec_eq_condJump (EncodedLength.jna rel) rfl rfl rfl
  case ja => exact transfers_of_exec_eq_condJump (EncodedLength.ja rel) rfl rfl rfl

/-- Settles O41: each jump runs as the conditional jump on the condition of its name; the comparisons of SF with OF
are those the model computes. -/
theorem jccOnSign : Obligations.JccOnSign := by
  intro s rel
  refine ⟨?js, ?jns, ?jl, ?jge, ?jle, ?jg⟩
  case js => exact transfers_of_exec_eq_condJump (EncodedLength.js rel) rfl rfl rfl
  case jns => exact transfers_of_exec_eq_condJump (EncodedLength.jns rel) rfl rfl rfl
  case jl => exact transfers_of_exec_eq_condJump (EncodedLength.jl rel) rfl rfl s.flags.condJl_eq_decide
  case jge => exact transfers_of_exec_eq_condJump (EncodedLength.jge rel) rfl rfl s.flags.condJge_eq_decide
  case jle => exact transfers_of_exec_eq_condJump (EncodedLength.jle rel) rfl rfl s.flags.condJle_eq_decide
  case jg => exact transfers_of_exec_eq_condJump (EncodedLength.jg rel) rfl rfl s.flags.condJg_eq_decide

/-! ### LOOP -/

/-- `LOOP` is the count of CX, then one write of `pc`: past the instruction when CX was 1, to the target otherwise. -/
theorem exec_loop (rel : Byte) (s : State) :
    exec (.loop rel) s = .next ((s.setReg16 .cx (s.reg16 .cx - 1#16)).jump
      (if s.reg16 .cx = 1#16 then s.pcAfter 2 else s.pcAfter 2 + BitVec.ofInt 16 rel.toInt)) := by
  have last : s.reg16 .cx - 1#16 = 0#16 ↔ s.reg16 .cx = 1#16 := sub_eq_zero
  have run : exec (.loop rel) s =
      condJump ((s.setReg16 .cx (s.reg16 .cx - 1#16)).reg16 .cx != 0#16) 2 rel
        (s.setReg16 .cx (s.reg16 .cx - 1#16)) := rfl
  rw [run, condJump_eq_next_jump, State.reg16_setReg16_same, State.relTarget, State.pcAfter_setReg16, sext16_eq_ofInt]
  simp only [bne_iff_ne, ne_eq, last, ite_not]

/-- Settles O43: the count is the write of CX, the transfer writes `pc` alone, and neither writes a flag. -/
theorem loopCountsCxDown : Obligations.LoopCountsCxDown := by
  intro s rel
  refine ⟨rfl, _, exec_loop rel s, ?count, State.jump_ip .., ?flags, ?frame⟩
  case count => exact State.reg16_setReg16_same s .cx _
  case flags => rw [State.jump_flags, State.setReg16_flags]
  case frame => exact (frame_setReg16 s .cx _).jump _

end Sys2Proof.Machine
end

section
/-! PROOFS of the statements of spec/44_stack_call_ret.md: `RET` is the pop of a word, then one write of `pc` with the
word that stood at the top of the stack (R291, R295). -/

namespace Sys2Proof.Machine

theorem exec_ret (s : State) : exec .ret s = .next (s.dropWord.jump s.stackTop) := rfl

/-- Settles O48: the pop moves SP alone, and the write of `pc` keeps the flags and every frame. -/
theorem retPopsIp : Obligations.RetPopsIp := by
  intro s
  refine ⟨rfl, _, exec_ret s, ?pc, ?sp, ?flags, ?frame⟩
  case pc => rw [State.jump_ip, State.stackTop]
  case sp => rw [State.reg16_jump, State.dropWord_sp]
  case flags => rw [State.jump_flags, State.dropWord_flags]
  case frame => exact (frame_dropWord s).jump _

end Sys2Proof.Machine
end

section
/-! PROOFS of the statements of spec/30_encoding.md on the decoder and the encoder: what the decoder can answer, said
once, and the two round trips (R100 to R120). -/

namespace Sys2Proof

/-! ### Runs of bytes -/

/-- The `n` bytes from offset `start` on. -/
def bytesFrom (w : Nat → Byte) (start n : Nat) : List Byte := (List.range n).map fun k => w (start + k)

@[simp] theorem bytesFrom_length (w : Nat → Byte) (start n : Nat) : (bytesFrom w start n).length = n := by
  simp [bytesFrom]

@[simp] theorem bytesFrom_zero (w : Nat → Byte) (start : Nat) : bytesFrom w start 0 = [] := rfl

@[simp] theorem bytesFrom_one (w : Nat → Byte) (start : Nat) : bytesFrom w start 1 = [w start] := rfl

theorem bytesFrom_succ (w : Nat → Byte) (start n : Nat) :
    bytesFrom w start (n + 1) = w start :: bytesFrom w (start + 1) n := by
  simp only [bytesFrom, List.range_succ_eq_map, List.map_cons, List.map_map, Nat.add_zero]
  exact congrArg _ (List.map_congr_left fun k _ => congrArg w (by simp; omega))

theorem bytesFrom_append (w : Nat → Byte) (start m n : Nat) :
    bytesFrom w start m ++ bytesFrom w (start + m) n = bytesFrom w start (m + n) := by
  simp [bytesFrom, List.range_add, Nat.add_assoc]

theorem wordBytes_imm16At (w : Nat → Byte) (start : Nat) : wordBytes (imm16At w start) = bytesFrom w start 2 := by
  simp [wordBytes, imm16At, bytesFrom_succ]

theorem imm16At_of_bytesFrom_eq {w : Nat → Byte} {start : Nat} {v : Word} (h : bytesFrom w start 2 = wordBytes v) :
    imm16At w start = v := by
  rw [← wordBytes_imm16At] at h
  simp only [wordBytes, List.cons.injEq, and_true] at h
  rw [← mkWord_hi8_lo8 (imm16At w start), h.1, h.2, mkWord_hi8_lo8]

/-- The bytes of the middle of a list. -/
theorem bytesFrom_bytesOf_append (front mid back : List Byte) {start n : Nat} (hs : start = front.length)
    (hn : n = mid.length) :
    bytesFrom (bytesOf (front ++ (mid ++ back))) start n = mid := by
  subst hs hn
  refine List.ext_getElem (bytesFrom_length ..) fun k hk inMid => ?_
  simp only [bytesFrom, List.getElem_map, List.getElem_range, bytesOf_append_right]
  simp [bytesOf, List.getElem?_append_left inMid, inMid]

/-! ### Encodings by their parts -/

/-- The encoding of a form without a ModRM byte. -/
theorem encode_of_parts_plain {c : Config} {i : Instr} {op : Byte} {imm : List Byte}
    (h : i.parts c = plainParts op imm) : encode c i = op :: imm := by
  rw [encode, h]; rfl

/-- The parts of a form with a ModRM byte at either width: `modRM8Parts` with the indices of the 8-bit registers,
`modRM16Parts` with those of the 16-bit ones. -/
def modRMParts {ρ : Type} (index : ρ → BitVec 3) (opcode : Byte) (reg : BitVec 3) (rm : RM ρ) (imm : List Byte) :
    Parts :=
  ⟨opcode, some (rm.modRM index reg), rm.dispBytes, imm⟩

theorem encode_of_parts_modRM {ρ : Type} {index : ρ → BitVec 3} {c : Config} {i : Instr} {op : Byte}
    {reg : BitVec 3} {rm : RM ρ} {imm : List Byte} (h : i.parts c = modRMParts index op reg rm imm) :
    encode c i = op :: rm.modRM index reg :: (rm.dispBytes ++ imm) := by
  rw [encode, h]; rfl

/-! ### What the decoder can answer -/

/-- An instruction whose parts are the bytes read, without a ModRM byte, or with one and accepted where `AM_SUPPORTED`
holds; the rejection of a ModRM byte; and, on a first byte outside the map, the marker or the rejection of that byte
(30_encoding.md R102, R115 to R119). -/
inductive DecoderAnswer (c : Config) (w : Nat → Byte) : Except DecodeError Instr → Prop
  | plain {i : Instr} (n : Nat) (parts : i.parts c = plainParts (w 0) (bytesFrom w 1 n))
      (wf : i.wellFormed = true) : DecoderAnswer c w (.ok i)
  | modRM {ρ : Type} {index : ρ → BitVec 3} {ofIndex : BitVec 3 → ρ} (inverse : ∀ k, index (ofIndex k) = k)
      {i : Instr} (n : Nat)
      (parts : i.parts c = modRMParts index (w 0) (regField w) (rmOperand ofIndex w)
        (bytesFrom w (immAt (rmOperand ofIndex w)) n))
      (wf : i.wellFormed = (rmOperand ofIndex w).wellFormed) : DecoderAnswer c w (withModRM c w i)
  | badModRM : DecoderAnswer c w (badModRM w)
  | offMap (unrecognised : recognisedFirstByte (w 0) = false) :
      DecoderAnswer c w (if w 0 = c.markerOpcode then .ok .nop else .error (.unrecognizedOpcode (w 0)))

theorem opcodePlus_opcodeReg {w : Nat → Byte} {n : Nat} (op : Byte) (row : ((w 0).extractLsb' 3 5).toNat = n)
    (high : (op.extractLsb' 3 5).toNat = n) (low : op.extractLsb' 0 3 = 0#3) : opcodePlus op (opcodeReg w) = w 0 :=
  opcodePlus_of_fields op (w 0) (BitVec.eq_of_toNat_eq (row.trans high.symm)) low

theorem eq_ofNat_of_toNat_eq {n : Nat} {b : BitVec n} {k : Nat} (h : b.toNat = k) : b = BitVec.ofNat n k := by
  rw [← h, BitVec.ofNat_toNat, BitVec.setWidth_eq]

/-- A row of a group opcode: the opcode byte and the `reg` field name the form together (30_encoding.md R115). -/
theorem DecoderAnswer.group {c : Config} {w : Nat → Byte} {ρ : Type} {index : ρ → BitVec 3} {ofIndex : BitVec 3 → ρ}
    (inverse : ∀ k, index (ofIndex k) = k) {i : Instr} {op reg : Nat} (n : Nat) (h : (w 0).toNat = op)
    (hg : (regField w).toNat = reg)
    (parts : i.parts c = modRMParts index (BitVec.ofNat 8 op) (BitVec.ofNat 3 reg) (rmOperand ofIndex w)
      (bytesFrom w (immAt (rmOperand ofIndex w)) n))
    (wf : i.wellFormed = (rmOperand ofIndex w).wellFormed) : DecoderAnswer c w (withModRM c w i) :=
  .modRM inverse n (by rw [eq_ofNat_of_toNat_eq h, eq_ofNat_of_toNat_eq hg, parts]) wf

/-- The rows of the map by the first byte: those of the `+r` forms by its five high bits, then those of one byte
each, by what follows the opcode byte. -/
theorem decoderAnswer_decode (c : Config) (w : Nat → Byte) : DecoderAnswer c w (decode c w) := by
  by_cases map : recognisedFirstByte (w 0) = false
  · rw [decode_of_recognisedFirstByte_eq_false c map]
    exact .offMap map
  unfold decode
  split
  case h_1 _ row => exact .plain 0 (by rw [← opcodePlus_opcodeReg 0x40#8 row rfl rfl]; simp [Instr.parts]) rfl
  case h_2 _ row => exact .plain 0 (by rw [← opcodePlus_opcodeReg 0x48#8 row rfl rfl]; simp [Instr.parts]) rfl
  case h_3 _ row => exact .plain 0 (by rw [← opcodePlus_opcodeReg 0x50#8 row rfl rfl]; simp [Instr.parts]) rfl
  case h_4 _ row => exact .plain 0 (by rw [← opcodePlus_opcodeReg 0x58#8 row rfl rfl]; simp [Instr.parts]) rfl
  case h_5 _ row => exact .plain 1 (by rw [← opcodePlus_opcodeReg 0xB0#8 row rfl rfl]; simp [Instr.parts]) rfl
  case h_6 _ row =>
    exact .plain 2
      (by rw [← opcodePlus_opcodeReg 0xB8#8 row rfl rfl, ← wordBytes_imm16At]; simp [Instr.parts]) rfl
  case h_7 =>
    split
    -- C3, CF: the opcode byte alone
    case h_38 _ h | h_42 _ h => exact .plain 0 (by rw [eq_ofNat_of_toNat_eq h]; rfl) rfl
    -- 04, 2C, 70 to 7F, CD, E2, EB: a byte follows
    case h_5 _ h | h_11 _ h | h_13 _ h | h_14 _ h | h_15 _ h | h_16 _ h | h_17 _ h | h_18 _ h | h_19 _ h | h_20 _ h
        | h_21 _ h | h_22 _ h | h_23 _ h | h_24 _ h | h_25 _ h | h_26 _ h | h_41 _ h | h_43 _ h | h_46 _ h =>
      exact .plain 1 (by rw [eq_ofNat_of_toNat_eq h]; rfl) rfl
    -- 05, 2D, A0 to A3, E8, E9: a word follows
    case h_6 _ h | h_12 _ h | h_34 _ h | h_35 _ h | h_36 _ h | h_37 _ h | h_44 _ h | h_45 _ h =>
      exact .plain 2 (by rw [eq_ofNat_of_toNat_eq h, ← wordBytes_imm16At]; rfl) rfl
    -- 00, 02, 28, 2A, 88, 8A and 01, 03, 29, 2B, 89, 8B: the `reg` field is a register
    case h_1 _ h | h_3 _ h | h_7 _ h | h_9 _ h | h_30 _ h | h_32 _ h =>
      exact .modRM Reg8.index_ofIndex 0
        (by rw [eq_ofNat_of_toNat_eq h, ← Reg8.index_ofIndex (regField w)]; rfl) rfl
    case h_2 _ h | h_4 _ h | h_8 _ h | h_10 _ h | h_31 _ h | h_33 _ h =>
      exact .modRM Reg16.index_ofIndex 0
        (by rw [eq_ofNat_of_toNat_eq h, ← Reg16.index_ofIndex (regField w)]; rfl) rfl
    -- the group opcodes 80, 81, 83
    case h_27 _ h =>
      split
      case h_1 _ hg | h_2 _ hg => exact .group Reg8.index_ofIndex 1 h hg rfl rfl
      case h_3 => exact .badModRM
    case h_28 _ h =>
      split
      case h_1 _ hg | h_2 _ hg => exact .group Reg16.index_ofIndex 2 h hg (by rw [← wordBytes_imm16At]; rfl) rfl
      case h_3 => exact .badModRM
    case h_29 _ h =>
      split
      case h_1 _ hg | h_2 _ hg => exact .group Reg16.index_ofIndex 1 h hg rfl rfl
      case h_3 => exact .badModRM
    -- C6, C7
    case h_39 _ h =>
      split
      case h_1 _ hg => exact .group Reg8.index_ofIndex 1 h hg rfl rfl
      case h_2 => exact .badModRM
    case h_40 _ h =>
      split
      case h_1 _ hg => exact .group Reg16.index_ofIndex 2 h hg (by rw [← wordBytes_imm16At]; rfl) rfl
      case h_2 => exact .badModRM
    -- F6, F7
    case h_47 _ h =>
      split
      case h_1 _ hg | h_2 _ hg | h_3 _ hg => exact .group Reg8.index_ofIndex 0 h hg rfl rfl
      case h_4 => exact .badModRM
    case h_48 _ h =>
      split
      case h_1 _ hg | h_2 _ hg | h_3 _ hg => exact .group Reg16.index_ofIndex 0 h hg rfl rfl
      case h_4 => exact .badModRM
    -- FE, FF
    case h_49 _ h =>
      split
      case h_1 _ hg | h_2 _ hg => exact .group Reg8.index_ofIndex 0 h hg rfl rfl
      case h_3 => exact .badModRM
    case h_50 _ h =>
      split
      case h_1 _ hg | h_2 _ hg => exact .group Reg16.index_ofIndex 0 h hg rfl rfl
      case h_3 => exact .badModRM
    -- a recognised byte is in one of the rows above
    case h_51 =>
      refine absurd ?_ map
      have high : ((w 0).extractLsb' 3 5).toNat = (w 0).toNat / 8 := by
        have := (w 0).isLt
        rw [BitVec.extractLsb'_toNat, Nat.shiftRight_eq_div_pow]; omega
      simp only [recognisedFirstByte, Bool.or_eq_false_iff, List.contains_eq_mem, decide_eq_false_iff_not,
        List.mem_cons, List.not_mem_nil, or_false, ← high]
      tauto

/-- The decoder rejects a first byte outside the map that is not the marker, or the ModRM byte beside the first byte
(30_encoding.md R115 to R117). -/
theorem eq_of_decode_eq_error {c : Config} {w : Nat → Byte} {e : DecodeError} (h : decode c w = .error e) :
    (e = .unrecognizedOpcode (w 0) ∧ recognisedFirstByte (w 0) = false ∧ w 0 ≠ c.markerOpcode) ∨
      e = .unimplementedAddressingMode (w 0) (w 1) := by
  have answer := decoderAnswer_decode c w
  rw [h] at answer
  generalize he : Except.error e = a at answer
  cases answer with
  | plain => cases he
  | modRM =>
    unfold withModRM badModRM at he
    split at he
    · cases he
    · exact .inr (Except.error.inj he)
  | badModRM => exact .inr (Except.error.inj he)
  | offMap unrecognised =>
    split at he
    case isTrue => cases he
    case isFalse notMarker => exact .inl ⟨Except.error.inj he, unrecognised, notMarker⟩

/-! ### Encoding what was decoded -/

/-- The bytes of a form with a ModRM byte are those read: the ModRM byte by its fields, then the displacement and the
immediate in the order of 30_encoding.md R100. -/
theorem modRM_bytes_eq_bytesFrom {ρ : Type} {index : ρ → BitVec 3} {ofIndex : BitVec 3 → ρ}
    (inverse : ∀ k, index (ofIndex k) = k) (w : Nat → Byte) (n : Nat) :
    w 0 :: (rmOperand ofIndex w).modRM index (regField w) ::
        ((rmOperand ofIndex w).dispBytes ++ bytesFrom w (immAt (rmOperand ofIndex w)) n) =
      bytesFrom w 0 (2 + (rmOperand ofIndex w).dispLen + n) := by
  have disp : (rmOperand ofIndex w).dispBytes = bytesFrom w 2 (rmOperand ofIndex w).dispLen := rmOperand_dispBytes ..
  rw [rmOperand_modRM index ofIndex inverse, disp, immAt, bytesFrom_append, Nat.add_assoc, Nat.add_comm 2,
    bytesFrom_succ, bytesFrom_succ]

theorem eq_of_withModRM_eq_ok {c : Config} {w : Nat → Byte} {i j : Instr} (h : withModRM c w j = .ok i) : j = i := by
  unfold withModRM badModRM at h
  split at h
  · exact Except.ok.inj h
  · cases h

/-- What the decoder accepts is well formed, and its encoding is as many of the bytes read as it is long. -/
theorem wellFormed_and_encode_of_decode {c : Config} {w : Nat → Byte} {i : Instr} (h : decode c w = .ok i) :
    i.wellFormed = true ∧ ∃ n, encode c i = bytesFrom w 0 n := by
  have answer := decoderAnswer_decode c w
  rw [h] at answer
  generalize he : Except.ok i = e at answer
  cases answer with
  | plain n parts wf =>
    cases he
    exact ⟨wf, n + 1, by rw [encode_of_parts_plain parts, bytesFrom_succ]⟩
  | modRM inverse n parts wf =>
    cases eq_of_withModRM_eq_ok he.symm
    exact ⟨wf.trans (rmOperand_wellFormed _ w), _,
      (encode_of_parts_modRM parts).trans (modRM_bytes_eq_bytesFrom inverse w n)⟩
  | badModRM => cases he
  | offMap _ =>
    split at he
    case isTrue marker =>
      cases he
      exact ⟨rfl, 1, by rw [bytesFrom_one, marker]; rfl⟩
    case isFalse => cases he

open Laws in
/-- The length of every instruction is that of its encoding (30_encoding.md R100). -/
theorem encodedLength : ∀ i : Instr, EncodedLength.Statement i
  | .movRm8R8 dst src => EncodedLength.movRm8R8 dst src
  | .movRm16R16 dst src => EncodedLength.movRm16R16 dst src
  | .movR8Rm8 dst src => EncodedLength.movR8Rm8 dst src
  | .movR16Rm16 dst src => EncodedLength.movR16Rm16 dst src
  | .movAlOff off => EncodedLength.movAlOff off
  | .movAxOff off => EncodedLength.movAxOff off
  | .movOffAl off => EncodedLength.movOffAl off
  | .movOffAx off => EncodedLength.movOffAx off
  | .movR8Imm8 dst imm => EncodedLength.movR8Imm8 dst imm
  | .movR16Imm16 dst imm => EncodedLength.movR16Imm16 dst imm
  | .movRm8Imm8 dst imm => EncodedLength.movRm8Imm8 dst imm
  | .movRm16Imm16 dst imm => EncodedLength.movRm16Imm16 dst imm
  | .addRm8R8 dst src => EncodedLength.addRm8R8 dst src
  | .addRm16R16 dst src => EncodedLength.addRm16R16 dst src
  | .addR8Rm8 dst src => EncodedLength.addR8Rm8 dst src
  | .addR16Rm16 dst src => EncodedLength.addR16Rm16 dst src
  | .addAlImm8 imm => EncodedLength.addAlImm8 imm
  | .addAxImm16 imm => EncodedLength.addAxImm16 imm
  | .addRm8Imm8 dst imm => EncodedLength.addRm8Imm8 dst imm
  | .addRm16Imm16 dst imm => EncodedLength.addRm16Imm16 dst imm
  | .addRm16Imm8 dst imm => EncodedLength.addRm16Imm8 dst imm
  | .subRm8R8 dst src => EncodedLength.subRm8R8 dst src
  | .subRm16R16 dst src => EncodedLength.subRm16R16 dst src
  | .subR8Rm8 dst src => EncodedLength.subR8Rm8 dst src
  | .subR16Rm16 dst src => EncodedLength.subR16Rm16 dst src
  | .subAlImm8 imm => EncodedLength.subAlImm8 imm
  | .subAxImm16 imm => EncodedLength.subAxImm16 imm
  | .subRm8Imm8 dst imm => EncodedLength.subRm8Imm8 dst imm
  | .subRm16Imm16 dst imm => EncodedLength.subRm16Imm16 dst imm
  | .subRm16Imm8 dst imm => EncodedLength.subRm16Imm8 dst imm
  | .mulRm8 src => EncodedLength.mulRm8 src
  | .mulRm16 src => EncodedLength.mulRm16 src
  | .divRm8 src => EncodedLength.divRm8 src
  | .divRm16 src => EncodedLength.divRm16 src
  | .idivRm8 src => EncodedLength.idivRm8 src
  | .idivRm16 src => EncodedLength.idivRm16 src
  | .incR16 dst => EncodedLength.incR16 dst
  | .decR16 dst => EncodedLength.decR16 dst
  | .incRm8 dst => EncodedLength.incRm8 dst
  | .decRm8 dst => EncodedLength.decRm8 dst
  | .incRm16 dst => EncodedLength.incRm16 dst
  | .decRm16 dst => EncodedLength.decRm16 dst
  | .jmpRel8 rel => EncodedLength.jmpRel8 rel
  | .jmpRel16 rel => EncodedLength.jmpRel16 rel
  | .jo rel => EncodedLength.jo rel
  | .jno rel => EncodedLength.jno rel
  | .jc rel => EncodedLength.jc rel
  | .jnc rel => EncodedLength.jnc rel
  | .jz rel => EncodedLength.jz rel
  | .jnz rel => EncodedLength.jnz rel
  | .jna rel => EncodedLength.jna rel
  | .ja rel => EncodedLength.ja rel
  | .js rel => EncodedLength.js rel
  | .jns rel => EncodedLength.jns rel
  | .jl rel => EncodedLength.jl rel
  | .jge rel => EncodedLength.jge rel
  | .jle rel => EncodedLength.jle rel
  | .jg rel => EncodedLength.jg rel
  | .loop rel => EncodedLength.loop rel
  | .pushR16 src => EncodedLength.pushR16 src
  | .popR16 dst => EncodedLength.popR16 dst
  | .callRel16 rel => EncodedLength.callRel16 rel
  | .ret => EncodedLength.ret
  | .int vector => EncodedLength.int vector
  | .iret => EncodedLength.iret
  | .nop => EncodedLength.nop

/-- Settles O2: the decoder's answer is an instruction whose parts are the bytes read, and there are as many of them as
the length of the encoding says. -/
theorem encodeOfDecodeIsTheBytes : Obligations.EncodeOfDecodeIsTheBytes := by
  intro c w i h
  obtain ⟨wf, n, code⟩ := wellFormed_and_encode_of_decode h
  have len : n = i.length := by rw [← (encodedLength i c).1, code, bytesFrom_length]
  refine ⟨wf, ?_⟩
  rw [code, len, bytesFrom]
  simp only [Nat.zero_add]

/-! ### Decoding what was encoded -/

/-- An instruction without a ModRM byte decodes from its bytes, when the decoder reads it off the opcode byte and the
bytes after it. -/
theorem decode_encode_plain {c : Config} {i : Instr} {op : Byte} {imm : List Byte} (tail : List Byte)
    (parts : i.parts c = plainParts op imm)
    (row : ∀ w, w 0 = op → bytesFrom w 1 imm.length = imm → decode c w = .ok i) :
    decode c (bytesOf (encode c i ++ tail)) = .ok i := by
  rw [encode_of_parts_plain parts]
  exact row _ rfl (bytesFrom_bytesOf_append [op] imm tail rfl rfl)

/-- The same for a `+r` form, which the decoder reads off the five high and the three low bits of the opcode byte. -/
theorem decode_encode_opcodePlus {c : Config} {i : Instr} {op : Byte} {r : BitVec 3} {imm : List Byte}
    (tail : List Byte) (parts : i.parts c = plainParts (opcodePlus op r) imm) (clear : op.extractLsb' 0 3 = 0#3)
    (row : ∀ w, (w 0).extractLsb' 3 5 = op.extractLsb' 3 5 → opcodeReg w = r → bytesFrom w 1 imm.length = imm →
      decode c w = .ok i) :
    decode c (bytesOf (encode c i ++ tail)) = .ok i := by
  obtain ⟨high, low⟩ := opcodePlus_fields op r clear
  exact decode_encode_plain tail parts fun w h0 himm => row w (by rw [h0, high]) (by rw [opcodeReg, h0, low]) himm

/-- An instruction with a ModRM byte decodes from its bytes, when the decoder reads it off the opcode byte, the fields
and the bytes after the displacement. -/
theorem decode_encode_modRM {ρ : Type} {index : ρ → BitVec 3} {ofIndex : BitVec 3 → ρ}
    (inverse : ∀ r, ofIndex (index r) = r) {c : Config} {i : Instr} {op : Byte} {reg : BitVec 3} {rm : RM ρ}
    {imm : List Byte} (tail : List Byte) (parts : i.parts c = modRMParts index op reg rm imm)
    (wf : rm.wellFormed = true) (accepted : c.accepts i = true)
    (row : ∀ w, w 0 = op → regField w = reg → rmOperand ofIndex w = rm → bytesFrom w (immAt rm) imm.length = imm →
      decode c w = withModRM c w i) :
    decode c (bytesOf (encode c i ++ tail)) = .ok i := by
  have supported : c.amSupported op (rm.modRM index reg) = true := by rwa [Config.accepts, parts] at accepted
  have front : immAt rm = (op :: rm.modRM index reg :: rm.dispBytes).length := by
    rw [List.length_cons, List.length_cons, RM.dispBytes_length, immAt, Nat.add_comm]
  rw [encode_of_parts_modRM parts, List.cons_append, List.cons_append, List.append_assoc, row _ rfl
    (regField_encoded index op reg rm _) (rmOperand_encoded index ofIndex inverse op reg rm _ wf)
    (bytesFrom_bytesOf_append (op :: rm.modRM index reg :: rm.dispBytes) imm tail front rfl)]
  exact if_pos supported

/-- Settles O1: each instruction by its format, the decoder's row being read off the first byte and the ModRM fields. -/
theorem decodeOfEncodeIsTheInstruction : Obligations.DecodeOfEncodeIsTheInstruction := by
  intro c i tail wf accepted marker
  cases i
  case nop =>
    rw [encode_of_parts_plain rfl, List.cons_append, decode_of_recognisedFirstByte_eq_false c (marker rfl)]
    exact if_pos rfl
  -- the opcode byte alone, or with a byte or a word after it
  case ret | iret => exact decode_encode_plain tail rfl fun w h0 _ => by unfold decode; rw [h0]; rfl
  case addAlImm8 | subAlImm8 | jmpRel8 | jo | jno | jc | jnc | jz | jnz | jna | ja | js | jns | jl | jge | jle | jg
      | loop | int =>
    exact decode_encode_plain tail rfl fun w h0 himm => by
      unfold decode; rw [← List.singleton_inj.mp himm, h0]; rfl
  case addAxImm16 | subAxImm16 | movAlOff | movAxOff | movOffAl | movOffAx | jmpRel16 | callRel16 =>
    exact decode_encode_plain tail rfl fun w h0 himm => by
      unfold decode; rw [← imm16At_of_bytesFrom_eq himm, h0]; rfl
  -- a register in the opcode byte
  case incR16 | decR16 | pushR16 | popR16 =>
    exact decode_encode_opcodePlus tail rfl rfl fun w high low _ => by
      unfold decode; rw [high, low, Reg16.ofIndex_index]; rfl
  case movR8Imm8 =>
    exact decode_encode_opcodePlus tail rfl rfl fun w high low himm => by
      unfold decode; rw [← List.singleton_inj.mp himm, high, low, Reg8.ofIndex_index]; rfl
  case movR16Imm16 =>
    exact decode_encode_opcodePlus tail rfl rfl fun w high low himm => by
      unfold decode; rw [← imm16At_of_bytesFrom_eq himm, high, low, Reg16.ofIndex_index]; rfl
  -- a ModRM byte, its `reg` field a register
  case movRm8R8 | movR8Rm8 | addRm8R8 | addR8Rm8 | subRm8R8 | subR8Rm8 =>
    exact decode_encode_modRM Reg8.ofIndex_index tail rfl wf accepted fun w h0 hg hrm _ => by
      unfold decode; rw [h0, rm8, hrm, reg8Field, hg, Reg8.ofIndex_index]; rfl
  case movRm16R16 | movR16Rm16 | addRm16R16 | addR16Rm16 | subRm16R16 | subR16Rm16 =>
    exact decode_encode_modRM Reg16.ofIndex_index tail rfl wf accepted fun w h0 hg hrm _ => by
      unfold decode; rw [h0, rm16, hrm, reg16Field, hg, Reg16.ofIndex_index]; rfl
  -- a ModRM byte, its `reg` field a part of the operation
  case mulRm8 | divRm8 | idivRm8 | incRm8 | decRm8 =>
    exact decode_encode_modRM Reg8.ofIndex_index tail rfl wf accepted fun w h0 hg hrm _ => by
      unfold decode; rw [h0, hg, rm8, hrm]; rfl
  case mulRm16 | divRm16 | idivRm16 | incRm16 | decRm16 =>
    exact decode_encode_modRM Reg16.ofIndex_index tail rfl wf accepted fun w h0 hg hrm _ => by
      unfold decode; rw [h0, hg, rm16, hrm]; rfl
  case addRm8Imm8 | subRm8Imm8 | movRm8Imm8 =>
    exact decode_encode_modRM Reg8.ofIndex_index tail rfl wf accepted fun w h0 hg hrm himm => by
      unfold decode; rw [h0, hg, rm8, hrm, ← List.singleton_inj.mp himm]; rfl
  case addRm16Imm8 | subRm16Imm8 =>
    exact decode_encode_modRM Reg16.ofIndex_index tail rfl wf accepted fun w h0 hg hrm himm => by
      unfold decode; rw [h0, hg, rm16, hrm, ← List.singleton_inj.mp himm]; rfl
  case addRm16Imm16 | subRm16Imm16 | movRm16Imm16 =>
    exact decode_encode_modRM Reg16.ofIndex_index tail rfl wf accepted fun w h0 hg hrm himm => by
      unfold decode; rw [h0, hg, rm16, hrm, ← imm16At_of_bytesFrom_eq himm]; rfl

end Sys2Proof
end

section
/-! PROOFS of the statements of spec/30_encoding.md, section 4, on the first bytes outside the map, the group opcodes
and the addressing modes the parameters exclude (R114 to R117), and of the index tables. -/

namespace Sys2Proof

open Machine

/-! ### First bytes outside the map -/

/-- The ranges of the statement are the unrecognised bytes but the default marker. -/
theorem mem_unlistedFirstBytes_iff (b : Byte) :
    (∃ range ∈ unlistedFirstBytes, range.1 ≤ b.toNat ∧ b.toNat ≤ range.2) ↔
      recognisedFirstByte b = false ∧ b ≠ 0x90#8 := by
  revert b; decide

/-- The decoder rejects the first byte exactly when it is outside the map and not the marker (30_encoding.md R116,
R119). -/
theorem decode_eq_unrecognizedOpcode_iff (c : Config) (w : Nat → Byte) :
    decode c w = .error (.unrecognizedOpcode (w 0)) ↔ recognisedFirstByte (w 0) = false ∧ w 0 ≠ c.markerOpcode := by
  constructor
  · intro h
    obtain ⟨-, rejected⟩ | other := eq_of_decode_eq_error h
    · exact rejected
    · cases other
  · rintro ⟨unrecognised, notMarker⟩
    rw [decode_of_recognisedFirstByte_eq_false c unrecognised, if_neg notMarker]

/-- Settles O4: a rejected first byte is outside the map and no marker, and the listed ranges are these bytes. -/
theorem unrecognisedFirstBytesAreTheListed157 : Obligations.UnrecognisedFirstBytesAreTheListed157 := by
  refine ⟨fun w => ?_, rfl⟩
  rw [decode_eq_unrecognizedOpcode_iff, mem_unlistedFirstBytes_iff]
  rfl

/-! ### The group opcodes -/

/-- A group opcode is one form with a ModRM byte for each listed `reg` value, and rejects every other one. -/
theorem decode_of_groupRegs {w : Nat → Byte} {regs : List Nat} (c : Config)
    (group : groupRegs (w 0).toNat = some regs) :
    ((regField w).toNat ∈ regs ∧ ∃ i, decode c w = withModRM c w i) ∨
      ((regField w).toNat ∉ regs ∧ decode c w = badModRM w) := by
  unfold groupRegs at group
  split at group
  -- 80, 81, 83, FE, FF implement two values, C6 and C7 one, F6 and F7 three
  case h_1 _ h | h_2 _ h | h_3 _ h | h_8 _ h | h_9 _ h =>
    cases group
    simp only [decode, eq_ofNat_of_toNat_eq h, BitVec.reduceExtractLsb', BitVec.toNat_ofNat, Nat.reducePow,
      Nat.reduceMod, List.mem_cons, List.not_mem_nil, or_false]
    split
    case h_1 | h_2 => exact .inl ⟨by omega, _, rfl⟩
    case h_3 => exact .inr ⟨by tauto, rfl⟩
  case h_4 _ h | h_5 _ h =>
    cases group
    simp only [decode, eq_ofNat_of_toNat_eq h, BitVec.reduceExtractLsb', BitVec.toNat_ofNat, Nat.reducePow,
      Nat.reduceMod, List.mem_cons, List.not_mem_nil, or_false]
    split
    case h_1 => exact .inl ⟨by omega, _, rfl⟩
    case h_2 => exact .inr ⟨by tauto, rfl⟩
  case h_6 _ h | h_7 _ h =>
    cases group
    simp only [decode, eq_ofNat_of_toNat_eq h, BitVec.reduceExtractLsb', BitVec.toNat_ofNat, Nat.reducePow,
      Nat.reduceMod, List.mem_cons, List.not_mem_nil, or_false]
    split
    case h_1 | h_2 | h_3 => exact .inl ⟨by omega, _, rfl⟩
    case h_4 => exact .inr ⟨by tauto, rfl⟩
  case h_10 => cases group

/-- Settles O6: on a listed value the row asks `AM_SUPPORTED` alone, on another it rejects the ModRM byte. -/
theorem groupOpcodesImplementTheListedRegValues : Obligations.GroupOpcodesImplementTheListedRegValues := by
  intro c w regs group
  obtain ⟨listed, i, row⟩ | ⟨unlisted, row⟩ := decode_of_groupRegs c group
  · rw [if_pos listed]
    exact fun supported => ⟨i, row.trans (if_pos supported)⟩
  · rw [if_neg unlisted]
    exact row

/-! ### Addressing modes the parameters exclude -/

theorem withModRM_of_unsupported {c : Config} {w : Nat → Byte} (h : c.amSupported (w 0) (w 1) = false) (i : Instr) :
    withModRM c w i = badModRM w := by
  rw [withModRM, h, if_neg Bool.false_ne_true]

/-- The first bytes with a ModRM byte that are no group opcode: their `reg` field is a register. -/
theorem mem_of_hasModRM {b : Byte} (h : hasModRM b.toNat = true) (noGroup : groupRegs b.toNat = none) :
    b ∈ [0x00#8, 0x01#8, 0x02#8, 0x03#8, 0x28#8, 0x29#8, 0x2A#8, 0x2B#8, 0x88#8, 0x89#8, 0x8A#8, 0x8B#8] := by
  revert b; decide

/-- Every row with a ModRM byte rejects it where `AM_SUPPORTED` is false (30_encoding.md R117). -/
theorem decode_of_unsupported {c : Config} {w : Nat → Byte} (modRM : hasModRM (w 0).toNat = true)
    (h : c.amSupported (w 0) (w 1) = false) : decode c w = badModRM w := by
  cases group : groupRegs (w 0).toNat with
  | some regs =>
    obtain ⟨-, i, row⟩ | ⟨-, row⟩ := decode_of_groupRegs c group
    · rw [row, withModRM_of_unsupported h]
    · exact row
  | none =>
    have first := mem_of_hasModRM modRM group
    simp only [List.mem_cons, List.not_mem_nil, or_false] at first
    rcases first with h0 | h0 | h0 | h0 | h0 | h0 | h0 | h0 | h0 | h0 | h0 | h0
    all_goals
      unfold decode
      rw [h0]
      exact withModRM_of_unsupported h _

end Sys2Proof

namespace Sys2Proof.Machine

/-- Settles O7: the decoder rejects the ModRM byte, and the step is that report. -/
theorem unsupportedAddressingModeIsFatal : Obligations.UnsupportedAddressingModeIsFatal := by
  intro s modRM unsupported
  have rejected : s.decodeNext = .error (.unimplementedAddressingMode (s.fetchByte 0) (s.fetchByte 1)) :=
    decode_of_unsupported modRM unsupported
  exact step_of_decodeNext_eq_error rejected

/-! ### Samples -/

/-- Settles O3: each word is decoded as it stands. -/
theorem sampleWordsDecode : Obligations.SampleWordsDecode := by
  unfold Obligations.SampleWordsDecode
  decide

end Sys2Proof.Machine
end

section
/-! PROOFS of the statements of spec/00_scope.md, section 5, on one step: it runs the instruction at CS:IP, and it ends
in a next state or in a report of that instruction (R6; spec/60_exceptions.md R357, R358). -/

namespace Sys2Proof.Machine

/-! ### The instruction at CS:IP -/

/-- Where the decoder accepts the bytes at CS:IP, the step is the execution of that instruction. -/
theorem step_of_decodeNext_eq_ok {s : State} {i : Instr} (h : s.decodeNext = .ok i) : step s = exec i s := by
  rw [step, h]

/-- Settles O8: the bytes of the statement are the ones the model fetches. -/
theorem stepRunsTheDecodedInstruction : Obligations.StepRunsTheDecodedInstruction := by
  intro s i h
  exact step_of_decodeNext_eq_ok h

/-- Bytes that begin with a list are that list, followed by the bytes that follow it. -/
theorem bytesOf_append_bytesFrom {w : Nat → Byte} {bs : List Byte} (h : ∀ k, k < bs.length → w k = bs.getD k 0#8)
    (n : Nat) {k : Nat} (hk : k < bs.length + n) : bytesOf (bs ++ bytesFrom w bs.length n) k = w k := by
  by_cases inside : k < bs.length
  · rw [h k inside, bytesOf, List.getD_append _ _ _ _ inside]
  · obtain ⟨j, rfl⟩ := Nat.exists_eq_add_of_le (Nat.le_of_not_lt inside)
    have after : j < n := by omega
    rw [bytesOf_append_right]
    simp [bytesOf, bytesFrom, after]

/-- Settles O9: the first six bytes, which decide, are those of the encoding followed by what lies after it, and they
decode to the instruction by the round trip of O1. -/
theorem stepRunsTheEncodedInstruction : Obligations.StepRunsTheEncodedInstruction := by
  intro s i wf accepted marker placed
  have begins : ∀ k, k < (encode s.cfg i).length → s.fetchByte k = (encode s.cfg i).getD k 0#8 := fun k hk =>
    placed k (by rwa [← (encodedLength i s.cfg).1])
  have decoded : s.decodeNext = .ok i := by
    rw [← decodeOfEncodeIsTheInstruction s.cfg i (bytesFrom s.fetchByte (encode s.cfg i).length 6) wf accepted marker]
    exact decode_congr s.cfg fun k hk => (bytesOf_append_bytesFrom begins 6 (by omega)).symm
  exact step_of_decodeNext_eq_ok decoded

/-- The encoding of the instruction at CS:IP begins with the byte there. -/
theorem parts_opcode_of_decodeNext {s : State} {i : Instr} (h : s.decodeNext = .ok i) :
    (i.parts s.cfg).opcode = s.fetchByte 0 := by
  obtain ⟨-, code⟩ := encodeOfDecodeIsTheBytes s.cfg s.fetchByte i h
  obtain ⟨m, len⟩ := Nat.exists_eq_add_of_le' (encodedLength i s.cfg).2.1
  rw [len, List.range_succ_eq_map, List.map_cons, encode] at code
  exact (List.cons.inj code).1

/-! ### The two outcomes -/

/-- What the report of an instruction carries: its opcode byte and the offset of that byte (60_exceptions.md R358). -/
def Reports (s : State) (opcode : Byte) (r : Result) : Prop :=
  (∃ t, r = .next t) ∨ ∃ f, r = .fault f ∧ f.opcode = opcode ∧ f.ip = s.ip

theorem reports_finishDiv8 (opcode : Byte) (n : Nat) (o : Option (Byte × Byte)) (s : State) :
    Reports s opcode (finishDiv8 opcode n o s) := by
  cases o with
  | none => exact .inr ⟨_, rfl, rfl, rfl⟩
  | some qr => exact .inl ⟨_, rfl⟩

theorem reports_finishDiv16 (opcode : Byte) (n : Nat) (o : Option (Word × Word)) (s : State) :
    Reports s opcode (finishDiv16 opcode n o s) := by
  cases o with
  | none => exact .inr ⟨_, rfl, rfl, rfl⟩
  | some qr => exact .inl ⟨_, rfl⟩

/-- An instruction ends in a next state or in a report of its own opcode byte, and never in a refusal. -/
theorem reports_exec (i : Instr) (s : State) : Reports s (i.parts s.cfg).opcode (exec i s) := by
  cases i
  case divRm8 | idivRm8 => exact reports_finishDiv8 ..
  case divRm16 | idivRm16 => exact reports_finishDiv16 ..
  case pushR16 src =>
    by_cases refused : src = .sp
    · subst refused
      exact .inr ⟨_, rfl, rfl, rfl⟩
    · exact .inl ⟨_, if_neg refused⟩
  case int vector =>
    simp only [exec, execInt]
    split
    · exact .inr ⟨_, rfl, rfl, rfl⟩
    · exact .inl ⟨_, rfl⟩
  all_goals exact .inl ⟨_, rfl⟩

end Sys2Proof.Machine
end

section
/-! PROOFS of the invariants of every step and of the statements on what no instruction reads: CS, ES, IDF and the
event stream reach nothing but `INT` and `IRET` (spec/10_state.md sections 3, 4 and 7, spec/20_memory.md section 1,
spec/60_exceptions.md section 3). -/

namespace Sys2Proof.Machine

/-! ### Invariants, by the updates a step is made of -/

theorem Built.inv {s t : State} (h : Built s t) (inv : s.Inv) : t.Inv := by
  induction h with
  | start => exact inv
  | setByte a v _ ih => exact State.wf_setByte _ a v ih
  | setReg16 _ _ _ ih | setFlags _ _ ih | setMulFlags _ _ ih | setDivFlags _ ih | farJump _ _ _ ih | emit _ _ ih =>
    exact ih

/-- Settles O11: a write of a byte keeps the canonical form, and no other update touches memory. -/
theorem stepKeepsMemoryCanonical : Obligations.StepKeepsMemoryCanonical := by
  intro s t inv h
  exact (step_built h).inv inv

theorem Built.segments_and_cfg {s t : State} (h : Built s t) :
    t.ds = s.ds ∧ t.es = s.es ∧ t.ss = s.ss ∧ t.cfg = s.cfg := by
  induction h with
  | start => exact ⟨rfl, rfl, rfl, rfl⟩
  | setByte _ _ _ ih | setReg16 _ _ _ ih | setFlags _ _ ih | setMulFlags _ _ ih | setDivFlags _ ih
  | farJump _ _ _ ih | emit _ _ ih => exact ih

/-- Settles O13: no update writes DS, ES, SS or the parameters. -/
theorem stepKeepsDataSegmentsAndParameters : Obligations.StepKeepsDataSegmentsAndParameters := by
  intro s t h
  exact (step_built h).segments_and_cfg

/-! ### The hidden part of the state -/

/-- What no instruction but `INT` and `IRET` reads or writes (10_state.md sections 3, 4 and 7). -/
structure Hidden where
  cs : Word
  es : Word
  idf : Bool
  events : List Event

def State.hidden (s : State) : Hidden := ⟨s.cs, s.es, s.flags.idf, s.events⟩

/-- The state with its hidden part changed. -/
def State.mapHidden (g : Hidden → Hidden) (s : State) : State :=
  { s with
    cs := (g s.hidden).cs
    es := (g s.hidden).es
    events := (g s.hidden).events
    flags := { s.flags with idf := (g s.hidden).idf } }

section
variable (g : Hidden → Hidden) (s : State)

@[simp] theorem State.byteAt_mapHidden (a : Word) : (s.mapHidden g).byteAt a = s.byteAt a := rfl
@[simp] theorem State.wordAt_mapHidden (a : Word) : (s.mapHidden g).wordAt a = s.wordAt a := rfl

/-- An operand is in DS or SS, and its base is a general register. -/
@[simp] theorem State.operandAddress_mapHidden (m : MemOp) : (s.mapHidden g).operandAddress m = s.operandAddress m := by
  rcases m with _ | b | ⟨b, _⟩ | ⟨b, _⟩
  case direct => rfl
  all_goals cases b <;> rfl

@[simp] theorem State.readRm8_mapHidden (rm : RM8) : (s.mapHidden g).readRm8 rm = s.readRm8 rm := by
  cases rm with
  | reg r => rfl
  | mem m => simp [State.readRm8]

@[simp] theorem State.readRm16_mapHidden (rm : RM16) : (s.mapHidden g).readRm16 rm = s.readRm16 rm := by
  cases rm with
  | reg r => rfl
  | mem m => simp [State.readRm16]

theorem State.writeRm8_mapHidden (dst : RM8) (v : Byte) :
    (s.mapHidden g).writeRm8 dst v = (s.writeRm8 dst v).mapHidden g := by
  cases dst with
  | reg r => rfl
  | mem m => simp only [State.writeRm8, State.operandAddress_mapHidden]; rfl

theorem State.writeRm16_mapHidden (dst : RM16) (v : Word) :
    (s.mapHidden g).writeRm16 dst v = (s.writeRm16 dst v).mapHidden g := by
  cases dst with
  | reg r => rfl
  | mem m => simp only [State.writeRm16, State.operandAddress_mapHidden]; rfl

theorem arithRm8_mapHidden (alu : Byte → Byte → Alu 8) (dst : RM8) (b : Byte) :
    arithRm8 alu dst b (s.mapHidden g) = (arithRm8 alu dst b s).mapHidden g := by
  cases dst with
  | reg r => rfl
  | mem m => simp only [arithRm8, State.writeRm8, State.readRm8_mapHidden, State.operandAddress_mapHidden]; rfl

theorem arithRm16_mapHidden (alu : Word → Word → Alu 16) (dst : RM16) (b : Word) :
    arithRm16 alu dst b (s.mapHidden g) = (arithRm16 alu dst b s).mapHidden g := by
  cases dst with
  | reg r => rfl
  | mem m => simp only [arithRm16, State.writeRm16, State.readRm16_mapHidden, State.operandAddress_mapHidden]; rfl

theorem stepRm8_mapHidden (alu : Byte → Byte → Alu 8) (dst : RM8) :
    stepRm8 alu dst (s.mapHidden g) = (stepRm8 alu dst s).mapHidden g := by
  cases dst with
  | reg r => rfl
  | mem m => simp only [stepRm8, State.writeRm8, State.readRm8_mapHidden, State.operandAddress_mapHidden]; rfl

theorem stepRm16_mapHidden (alu : Word → Word → Alu 16) (dst : RM16) :
    stepRm16 alu dst (s.mapHidden g) = (stepRm16 alu dst s).mapHidden g := by
  cases dst with
  | reg r => rfl
  | mem m => simp only [stepRm16, State.writeRm16, State.readRm16_mapHidden, State.operandAddress_mapHidden]; rfl

variable {s} in
/-- Moving past the instruction commutes with the change. -/
theorem next_advance_mapHidden {t : State} (h : t = s.mapHidden g) (n : Nat) :
    (.next (t.advance n) : Result) = mapNext (·.mapHidden g) (.next (s.advance n)) := by
  rw [h]; rfl

theorem condJump_mapHidden (cond : Bool) (n : Nat) (rel : Byte) :
    condJump cond n rel (s.mapHidden g) = mapNext (·.mapHidden g) (condJump cond n rel s) := by
  cases cond <;> rfl

theorem finishDiv8_mapHidden (opcode : Byte) (n : Nat) (o : Option (Byte × Byte)) :
    finishDiv8 opcode n o (s.mapHidden g) = mapNext (·.mapHidden g) (finishDiv8 opcode n o s) := by
  cases o <;> rfl

theorem finishDiv16_mapHidden (opcode : Byte) (n : Nat) (o : Option (Word × Word)) :
    finishDiv16 opcode n o (s.mapHidden g) = mapNext (·.mapHidden g) (finishDiv16 opcode n o s) := by
  cases o <;> rfl

/-- Every instruction but `INT` and `IRET` does the same whatever the hidden part is, and leaves it alone. -/
theorem exec_mapHidden {i : Instr} (notInt : ∀ n, i ≠ .int n) (notIret : i ≠ .iret) :
    exec i (s.mapHidden g) = mapNext (·.mapHidden g) (exec i s) := by
  cases i
  case int n => exact absurd rfl (notInt n)
  case iret => exact absurd rfl notIret
  case pushR16 src =>
    by_cases refused : src = .sp
    · subst refused; rfl
    · simp only [exec, execPushR16, if_neg refused]; rfl
  case movRm8R8 | movRm8Imm8 =>
    exact next_advance_mapHidden g (s.writeRm8_mapHidden g ..) _
  case movRm16R16 | movRm16Imm16 =>
    exact next_advance_mapHidden g (s.writeRm16_mapHidden g ..) _
  case addRm8R8 | addRm8Imm8 | subRm8R8 | subRm8Imm8 =>
    exact next_advance_mapHidden g (arithRm8_mapHidden g s ..) _
  case addRm16R16 | addRm16Imm16 | addRm16Imm8 | subRm16R16 | subRm16Imm16 | subRm16Imm8 =>
    exact next_advance_mapHidden g (arithRm16_mapHidden g s ..) _
  case incRm8 | decRm8 =>
    exact next_advance_mapHidden g (stepRm8_mapHidden g s ..) _
  case incRm16 | decRm16 =>
    exact next_advance_mapHidden g (stepRm16_mapHidden g s ..) _
  case movR8Rm8 => simp only [exec, execMovR8Rm8, State.readRm8_mapHidden]; rfl
  case movR16Rm16 => simp only [exec, execMovR16Rm16, State.readRm16_mapHidden]; rfl
  case addR8Rm8 => simp only [exec, execAddR8Rm8, State.readRm8_mapHidden]; rfl
  case subR8Rm8 => simp only [exec, execSubR8Rm8, State.readRm8_mapHidden]; rfl
  case addR16Rm16 => simp only [exec, execAddR16Rm16, State.readRm16_mapHidden]; rfl
  case subR16Rm16 => simp only [exec, execSubR16Rm16, State.readRm16_mapHidden]; rfl
  case mulRm8 => simp only [exec, execMulRm8, State.readRm8_mapHidden]; rfl
  case mulRm16 => simp only [exec, execMulRm16, State.readRm16_mapHidden]; rfl
  case divRm8 => simp only [exec, execDivRm8, State.readRm8_mapHidden]; exact finishDiv8_mapHidden ..
  case idivRm8 => simp only [exec, execIdivRm8, State.readRm8_mapHidden]; exact finishDiv8_mapHidden ..
  case divRm16 => simp only [exec, execDivRm16, State.readRm16_mapHidden]; exact finishDiv16_mapHidden ..
  case idivRm16 => simp only [exec, execIdivRm16, State.readRm16_mapHidden]; exact finishDiv16_mapHidden ..
  case jo | jno | jc | jnc | jz | jnz | jna | ja | js | jns | jl | jge | jle | jg =>
    exact condJump_mapHidden g s ..
  case loop => exact condJump_mapHidden g (s.setReg16 .cx _) ..
  -- the forms without an `r/m` operand run on the visible part as they stand
  all_goals rfl

end

/-- The hidden part after any instruction but `INT` and `IRET` is the one before it. -/
theorem hidden_of_exec_eq_next {i : Instr} {s t : State} (notInt : ∀ n, i ≠ .int n) (notIret : i ≠ .iret)
    (h : exec i s = .next t) : t.hidden = s.hidden := by
  have same : exec i s = mapNext (·.mapHidden fun _ => s.hidden) (exec i s) :=
    exec_mapHidden (fun _ => s.hidden) s notInt notIret
  rw [h] at same
  have kept : t = t.mapHidden fun _ => s.hidden := Host.Outcome.next.inj same
  rw [kept]; rfl

/-- Settles O14: CS and IDF are in the hidden part. -/
theorem onlyIntAndIretChangeCsAndIdf : Obligations.OnlyIntAndIretChangeCsAndIdf := by
  intro i s t notInt notIret h
  have kept := hidden_of_exec_eq_next notInt notIret h
  exact ⟨congrArg Hidden.cs kept, congrArg Hidden.idf kept⟩

/-- Settles O16: another IDF is another hidden part, and `IRET` replaces all five flags. -/
theorem idfMasksNothing : Obligations.IdfMasksNothing := by
  refine ⟨fun i s b notInt notIret => ?_, fun _ _ => rfl⟩
  exact exec_mapHidden (fun h => { h with idf := b }) s notInt notIret

/-! ### `INT` and the event -/

/-- What `INT` of a known vector leaves: the entry, then the event, asked of the state before it (45_int_iret.md R320,
R322). -/
def State.takeInterrupt (s : State) (n : Byte) (off : Word) : State :=
  (s.enterInterrupt (s.pcAfter 2) s.cfg.biosSeg off).emit (s.eventOf n)

theorem exec_int_of_handlerOffset {s : State} {n : Byte} {off : Word} (h : s.handlerOffset n = some off) :
    exec (.int n) s = .next (s.takeInterrupt n off) := by
  simp only [exec, execInt, h]; rfl

theorem exec_int_of_handlerOffset_eq_none {s : State} {n : Byte} (h : s.handlerOffset n = none) :
    exec (.int n) s = .fault (.unknownInterruptVector 0xCD#8 s.ip n) := by
  simp only [exec, execInt, h]; rfl

@[simp] theorem State.takeInterrupt_events (s : State) (n : Byte) (off : Word) :
    (s.takeInterrupt n off).events = s.events ++ (s.eventOf n).toList := rfl

/-- A step yields at most one event: that of an `INT`. -/
theorem events_of_exec_eq_next {i : Instr} {s t : State} (h : exec i s = .next t) :
    t.events = s.events ∨ ∃ e, t.events = s.events ++ [e] := by
  by_cases isIret : i = .iret
  · subst isIret
    cases h
    exact .inl rfl
  by_cases isInt : ∃ n, i = .int n
  · obtain ⟨n, rfl⟩ := isInt
    cases known : s.handlerOffset n with
    | none => rw [exec_int_of_handlerOffset_eq_none known] at h; cases h
    | some off =>
      rw [exec_int_of_handlerOffset known] at h
      cases h
      cases event : s.eventOf n with
      | none => exact .inl (by rw [State.takeInterrupt_events, event]; exact List.append_nil _)
      | some e => exact .inr ⟨e, by rw [State.takeInterrupt_events, event]; rfl⟩
  · exact .inl (congrArg Hidden.events (hidden_of_exec_eq_next (not_exists.mp isInt) isIret h))

/-- Settles O10: a rejection of the decoder reports the first byte, an instruction its opcode byte, which is that byte;
and a completed instruction yields at most one event. -/
theorem stepHasTwoOutcomes : Obligations.StepHasTwoOutcomes := by
  intro s
  cases decoded : s.decodeNext with
  | error e =>
    refine .inr ⟨_, step_of_decodeNext_eq_error decoded, ?_⟩
    obtain ⟨rfl, -⟩ | rfl := eq_of_decode_eq_error decoded
    · exact ⟨rfl, rfl⟩
    · exact ⟨rfl, rfl⟩
  | ok i =>
    rw [step_of_decodeNext_eq_ok decoded, ← parts_opcode_of_decodeNext decoded]
    obtain ⟨t, next⟩ | report := reports_exec i s
    · exact .inl ⟨t, next, events_of_exec_eq_next next⟩
    · exact .inr report

/-! ### Steps that differ in what is not read -/

/-- Two steps answer the same, each after its own change of the next state, when the same bytes are decoded and every
instruction does. -/
theorem mapNext_step_congr {s s' : State} {f f' : State → State} (decoded : s'.decodeNext = s.decodeNext)
    (pc : s'.ip = s.ip) (same : ∀ i, mapNext f' (exec i s') = mapNext f (exec i s)) :
    mapNext f' (step s') = mapNext f (step s) := by
  unfold step
  rw [decoded, pc]
  cases s.decodeNext with
  | ok i => exact same i
  | error e => rfl

theorem mapNext_id (r : Result) : mapNext (fun t => t) r = r := by cases r <;> rfl

theorem mapNext_mapNext (f g : State → State) (r : Result) :
    mapNext f (mapNext g r) = mapNext (fun t => f (g t)) r := by
  cases r <;> rfl

/-- Two `INT`s of one vector answer the same, in the same sense, when they find the same handler. -/
theorem mapNext_int_congr {s s' : State} {f f' : State → State} {n : Byte}
    (handler : s'.handlerOffset n = s.handlerOffset n) (pc : s'.ip = s.ip)
    (same : ∀ off, f' (s'.takeInterrupt n off) = f (s.takeInterrupt n off)) :
    mapNext f' (exec (.int n) s') = mapNext f (exec (.int n) s) := by
  cases known : s.handlerOffset n with
  | none =>
    rw [exec_int_of_handlerOffset_eq_none known, exec_int_of_handlerOffset_eq_none (handler.trans known), pc]; rfl
  | some off =>
    rw [exec_int_of_handlerOffset known, exec_int_of_handlerOffset (handler.trans known)]
    exact congrArg Host.Outcome.next (same off)

/-- ES is in the hidden part, and `IRET` does not touch it. -/
theorem exec_withEs {i : Instr} (notInt : ∀ n, i ≠ .int n) (s : State) (v : Word) :
    exec i (s.withEs v) = mapNext (·.withEs v) (exec i s) := by
  by_cases isIret : i = .iret
  · subst isIret; rfl
  · exact exec_mapHidden (fun h => { h with es := v }) s notInt isIret

/-- Settles O15: only the event of an `INT` can tell two values of ES apart, and it does not under a tree that does not
ask about ES. -/
theorem esIsNeverRead : Obligations.EsIsNeverRead := by
  refine ⟨fun s v notAsked => ?_, fun s v => mapNext_step_congr rfl rfl fun i => ?_⟩
  · rw [← mapNext_id (step _)]
    refine mapNext_step_congr rfl rfl fun i => ?_
    by_cases isInt : ∃ n, i = .int n
    · obtain ⟨n, rfl⟩ := isInt
      have event : (s.withEs v).eventOf n = s.eventOf n := chooseEvent_es notAsked n s.registerFile v
      refine mapNext_int_congr rfl rfl fun off => ?_
      rw [State.takeInterrupt, event]; rfl
    · rw [mapNext_id, exec_withEs (not_exists.mp isInt)]
  · by_cases isInt : ∃ n, i = .int n
    · obtain ⟨n, rfl⟩ := isInt
      exact mapNext_int_congr rfl rfl fun off => rfl
    · rw [exec_withEs (not_exists.mp isInt), mapNext_mapNext]

/-- Settles O17: the events are in the hidden part, `IRET` does not touch them, and `INT` puts its own after them. -/
theorem eventStreamIsNeverRead : Obligations.EventStreamIsNeverRead := by
  intro s earlier
  rw [← mapNext_id (step _)]
  refine mapNext_step_congr rfl rfl fun i => ?_
  by_cases isInt : ∃ n, i = .int n
  · obtain ⟨n, rfl⟩ := isInt
    refine mapNext_int_congr rfl rfl fun off => ?_
    have order : (earlier ++ s.events) ++ (s.eventOf n).toList = earlier ++ (s.events ++ (s.eventOf n).toList) :=
      List.append_assoc ..
    exact congrArg (fun es => { s.takeInterrupt n off with events := es }) order
  rw [mapNext_id]
  by_cases isIret : i = .iret
  · subst isIret; rfl
  · exact exec_mapHidden (fun h => { h with events := earlier ++ h.events }) s (not_exists.mp isInt) isIret

end Sys2Proof.Machine
end

section
/-! PROOFS of the statements of spec/10_state.md, sections 5 and 8, and spec/20_memory.md: the flags image, the state
after reset, words in memory and physical addresses. -/

namespace Sys2Proof.Machine

/-! ### Memory and addresses -/

/-- Settles O19: by the laws of byte and word writes; an address and the next one differ. -/
theorem wordsInMemoryAreLittleEndian : Obligations.WordsInMemoryAreLittleEndian := by
  intro s a v b
  refine ⟨?low, ?high, s.wordAt_setWord_same a v, (frame_setWord s a v).bytes_kept, s.byteAt_setByte_same a b, ?others,
    toNat_mkWord ..⟩
  case low => rw [State.byteAt_setWord, if_neg (ne_add_one a).symm, if_pos rfl]
  case high => rw [State.byteAt_setWord, if_pos rfl]
  case others => exact fun x hx => s.byteAt_setByte_ne b hx

/-- Settles O20: the formula of R61 modulo 2^16, and the next offset at the next address. -/
theorem physicalAddressOfSegmentAndOffset : Obligations.PhysicalAddressOfSegmentAndOffset := by
  intro s seg off
  refine ⟨?formula, ?zero, ?word⟩
  case formula => rw [State.phys, BitVec.toNat_add, BitVec.toNat_mul, Nat.mod_add_mod]
  case zero => rw [State.phys, BitVec.mul_zero, BitVec.zero_add]
  case word => rw [State.wordAt, State.phys_add]

/-! ### The flags image -/

/-- A flag bit is the flag at its position and zero elsewhere. -/
theorem getLsbD_flagBit (b : Bool) (p : Nat) {i : Nat} (hi : i < 16) :
    (flagBit b p).getLsbD i = (decide (i = p) && b) := by
  simp only [flagBit, BitVec.getLsbD_shiftLeft, BitVec.getLsbD_setWidth, BitVec.getLsbD_ofBool, hi]
  by_cases h : i = p
  · simp [h]
  · have apart : i < p ∨ i - p ≠ 0 := by omega
    rcases apart with h' | h' <;> simp [h, h']

/-- The image is the five flags at their bits and zero elsewhere (10_state.md R33). -/
theorem Flags.getLsbD_image (f : Flags) {i : Nat} (hi : i < 16) :
    f.image.getLsbD i = (decide (i = 0) && f.cf || decide (i = 6) && f.zf || decide (i = 7) && f.sf ||
      decide (i = 9) && f.idf || decide (i = 11) && f.of) := by
  simp only [Flags.image, BitVec.getLsbD_or, getLsbD_flagBit _ _ hi]

/-- Settles O22: bit by bit, and the round trip of the flags. -/
theorem flagsImageRoundTrip : Obligations.FlagsImageRoundTrip := by
  intro f w
  refine ⟨f.ofImage_image, ?cf, ?zf, ?sf, ?idf, ?of, ?zeros, ?back⟩
  case cf | zf | sf | idf | of => rw [f.getLsbD_image (by decide)]; simp
  case zeros =>
    refine BitVec.eq_of_getLsbD_eq fun i hi => ?_
    rw [BitVec.getLsbD_and, f.getLsbD_image hi]
    interval_cases i <;> simp
  case back =>
    refine BitVec.eq_of_getLsbD_eq fun i hi => ?_
    rw [BitVec.getLsbD_and, Flags.getLsbD_image _ hi]
    interval_cases i <;> simp [Flags.ofImage]

/-! ### Reset -/

/-- Settles O23: each register by its row of R47, and no byte listed in memory. -/
theorem stateAfterReset : Obligations.StateAfterReset := by
  refine ⟨fun c => ⟨fun a => rfl, fun r => ?regs, fun g => ?segs, rfl, rfl, rfl, rfl⟩, rfl, rfl⟩
  case regs => cases r <;> rfl
  case segs => cases g <;> rfl

end Sys2Proof.Machine
end

section
/-! PROOFS of the statements of spec/70_reset_and_hazards.md: what the host loads, the state after boot, and how a run
ends (R392 to R397). -/

namespace Sys2Proof.Machine

/-! ### Load -/

/-- Storing bytes changes memory alone. -/
theorem State.storeBytes_with_mem (bs : List Byte) (s : State) (a : Word) :
    { s.storeBytes a bs with mem := s.mem } = s := by
  induction bs generalizing s a with
  | nil => rfl
  | cons b bs ih => exact congrArg (fun t : State => { t with mem := s.mem }) (ih (s.setByte a b) (a + 1#16))

theorem add_ofNat_succ (a : Word) (i : Nat) : a + BitVec.ofNat 16 (i + 1) = a + 1#16 + BitVec.ofNat 16 i := by
  rw [BitVec.add_assoc, BitVec.add_comm 1#16, ← BitVec.ofNat_add]

/-- A byte at none of the stored addresses is as before. -/
theorem State.byteAt_storeBytes_ne (bs : List Byte) (s : State) (a : Word) {x : Word}
    (h : ∀ i, i < bs.length → x ≠ a + BitVec.ofNat 16 i) : (s.storeBytes a bs).byteAt x = s.byteAt x := by
  induction bs generalizing s a with
  | nil => rfl
  | cons b bs ih =>
    have here : x ≠ a := by simpa using h 0 (Nat.succ_pos _)
    have later : ∀ i, i < bs.length → x ≠ a + 1#16 + BitVec.ofNat 16 i := fun i hi => by
      rw [← add_ofNat_succ]
      exact h (i + 1) (Nat.succ_lt_succ hi)
    rw [State.storeBytes, ih _ _ later, State.byteAt_setByte_ne _ _ here]

/-- Byte `i` of at most 65536 bytes stands at its address: no later byte goes around to it. -/
theorem State.byteAt_storeBytes (bs : List Byte) (s : State) (a : Word) (fits : bs.length ≤ 65536) {i : Nat}
    (hi : i < bs.length) : (s.storeBytes a bs).byteAt (a + BitVec.ofNat 16 i) = bs.getD i 0#8 := by
  induction bs generalizing s a i with
  | nil => cases hi
  | cons b bs ih =>
    have fits' : bs.length + 1 ≤ 65536 := fits
    cases i with
    | zero =>
      have apart : ∀ j, j < bs.length → a ≠ a + 1#16 + BitVec.ofNat 16 j := fun j hj same => by
        rw [← add_ofNat_succ] at same
        have := congrArg BitVec.toNat same
        simp only [BitVec.toNat_add, BitVec.toNat_ofNat] at this
        omega
      rw [BitVec.add_zero, State.storeBytes, State.byteAt_storeBytes_ne _ _ _ apart]
      exact s.byteAt_setByte_same a b
    | succ i =>
      rw [add_ofNat_succ]
      exact ih _ _ (by omega) (Nat.lt_of_succ_lt_succ hi)

/-- Settles O58: a program that fits is stored byte by byte, and one that does not is refused. -/
theorem loadCopiesTheProgram : Obligations.LoadCopiesTheProgram := by
  intro s origin program
  split
  case isTrue fits =>
    refine ⟨s.storeBytes origin program, if_pos fits, fun i hi => ?_, fun a ha => ?_, ?_⟩
    · exact s.byteAt_storeBytes program origin fits hi
    · exact s.byteAt_storeBytes_ne program origin ha
    · exact s.storeBytes_with_mem program origin
  case isFalse tooLong => exact if_neg tooLong

/-! ### Boot -/

theorem State.inv_load {s t : State} {origin : Word} {program : List Byte} (inv : s.Inv)
    (h : s.load origin program = some t) : t.Inv := by
  unfold State.load at h
  split at h
  · cases h
    exact State.wf_storeBytes program s origin inv
  · cases h

theorem State.inv_writeInterruptProcedure {s t : State} {vector : Byte} (inv : s.Inv)
    (h : s.writeInterruptProcedure vector = some t) : t.Inv := by
  obtain ⟨off, -, rfl⟩ := Option.map_eq_some_iff.mp h
  exact State.wf_setByte _ _ _ (State.wf_setByte _ _ _ inv)

/-- Settles O12: reset lists no byte, and each step of the boot keeps the canonical form. -/
theorem bootedMemoryIsCanonical : Obligations.BootedMemoryIsCanonical := by
  refine ⟨State.reset_wf _, fun c program s booted => ?_⟩
  obtain ⟨loaded, hload, rest⟩ := Option.bind_eq_some_iff.mp booted
  obtain ⟨first, hfirst, rest⟩ := Option.bind_eq_some_iff.mp rest
  obtain ⟨second, hsecond, rfl⟩ := Option.map_eq_some_iff.mp rest
  have inv : loaded.Inv := State.inv_load (State.reset_wf c) hload
  have stubs : second.Inv := State.inv_writeInterruptProcedure (State.inv_writeInterruptProcedure inv hfirst) hsecond
  exact stubs

/-! ### Runs -/

theorem State.completed_iff (stop : Word) (s : State) : s.completed stop = true ↔ s.ip = stop ∧ s.cs = 0#16 := by
  simp [State.completed]

/-- Settles O59: by the budget; a step is never refused, and a failed one ends the run in the state before it. -/
theorem runEndsAtStopOrAtAFatalStep : Obligations.RunEndsAtStopOrAtAFatalStep := by
  intro stop budget
  induction budget with
  | zero =>
    intro s
    unfold run
    by_cases ended : s.completed stop = true
    · rw [if_pos ended]; exact (s.completed_iff stop).mp ended
    · rw [if_neg ended]; exact fun h => ended ((s.completed_iff stop).mpr h)
  | succ budget ih =>
    intro s
    unfold run
    by_cases ended : s.completed stop = true
    · rw [if_pos ended]; exact (s.completed_iff stop).mp ended
    rw [if_neg ended]
    obtain ⟨t, next, -⟩ | ⟨f, fault, -⟩ := stepHasTwoOutcomes s
    · rw [next]; exact ih t
    · rw [fault]; exact ⟨fault, fun h => ended ((s.completed_iff stop).mpr h)⟩

end Sys2Proof.Machine
end

section
/-! PROOFS of the statements of spec/44_stack_call_ret.md on `PUSH`, `POP` and `CALL`: one push or one pop beside the
write of a register or of `pc` (R290 to R294). -/

namespace Sys2Proof.Machine

theorem exec_pushR16_of_ne {r : Reg16} (notSp : r ≠ .sp) (s : State) :
    exec (.pushR16 r) s = .next ((s.push16 (s.reg16 r)).advance 1) := by
  simp only [exec, execPushR16, if_neg notSp]; rfl

theorem exec_popR16 (r : Reg16) (s : State) :
    exec (.popR16 r) s = .next ((s.dropWord.setReg16 r s.stackTop).advance 1) := rfl

theorem exec_callRel16 (rel : Word) (s : State) :
    exec (.callRel16 rel) s = .next ((s.push16 (s.pcAfter 3)).jump (s.pcAfter 3 + rel)) := rfl

/-- The word pushed stands at the new top of the stack. -/
theorem State.wordAt_push16 (s : State) (v : Word) :
    (s.push16 v).wordAt (s.phys s.ss (s.reg16 .sp - 2#16)) = v := s.stackTop_push16 v

/-- A push and a pop leave every register as it was. -/
theorem State.reg16_dropWord_push16 (s : State) (v : Word) (r : Reg16) :
    (s.push16 v).dropWord.reg16 r = s.reg16 r := by
  by_cases h : r = .sp
  · subst h
    rw [State.dropWord_sp, State.push16_sp, BitVec.sub_add_cancel]
  · rw [State.reg16_dropWord_ne _ h, State.reg16_push16_ne _ _ h]

/-- Settles O44: the push, then the move past the instruction. -/
theorem pushStoresBelowTheTop : Obligations.PushStoresBelowTheTop := by
  intro s r notSp
  refine ⟨rfl, _, exec_pushR16_of_ne notSp s, ?sp, ?word, ?flags, ?pc, ?frame⟩
  case sp => rw [State.reg16_advance, State.push16_sp]
  case word => rw [State.wordAt_advance, State.wordAt_push16]
  case flags => rw [State.advance_flags, State.push16_flags]
  case pc => rw [State.advance_ip, State.pcAfter_push16]
  case frame => exact (frame_push16 s _).advance _

/-- Settles O45: the form of SP stops before anything is pushed. -/
theorem pushSpIsRefused : Obligations.PushSpIsRefused := by
  intro s
  exact ⟨rfl, rfl⟩

/-- Settles O46: SP moves first and the register is written after it, with the word that stood at the old top. -/
theorem popLoadsTheTop : Obligations.PopLoadsTheTop := by
  intro s r
  refine ⟨rfl, _, exec_popR16 r s, ?word, fun notSp => ?sp, ?flags, ?pc, ?frame⟩
  case word => rw [State.reg16_advance, State.reg16_setReg16_same, State.stackTop]
  case sp => rw [State.reg16_advance, State.reg16_setReg16_ne _ _ (Ne.symm notSp), State.dropWord_sp]
  case flags => rw [State.advance_flags, State.setReg16_flags, State.dropWord_flags]
  case pc => rw [State.advance_ip, State.pcAfter_setReg16, State.pcAfter_dropWord]
  case frame => exact ((frame_dropWord s).trans (frame_setReg16 _ r _)).advance _

/-- Settles O47: the push of the return offset, then one write of `pc`. -/
theorem callPushesTheReturnOffset : Obligations.CallPushesTheReturnOffset := by
  intro s rel
  refine ⟨rfl, _, exec_callRel16 rel s, ?sp, ?word, State.jump_ip .., ?flags, ?frame⟩
  case sp => rw [State.reg16_jump, State.push16_sp]
  case word => rw [State.wordAt_jump, State.wordAt_push16]
  case flags => rw [State.jump_flags, State.push16_flags]
  case frame => exact (frame_push16 s _).jump _

/-- Settles O49: the pop finds the word pushed at the top, and every register but its own is as before the push. -/
theorem pushThenPopMovesTheWord : Obligations.PushThenPopMovesTheWord := by
  intro s a b aNotSp bNotSp
  refine ⟨_, _, exec_pushR16_of_ne aNotSp s, exec_popR16 b _, ?word, fun r hr => ?others, rfl⟩
  case word =>
    rw [State.reg16_advance, State.reg16_setReg16_same]
    exact s.stackTop_push16 _
  case others =>
    rw [State.reg16_advance, State.reg16_setReg16_ne _ _ hr]
    exact s.reg16_dropWord_push16 (s.reg16 a) r

/-- Settles O50: the return finds the return offset at the top of the stack. -/
theorem callThenRetResumes : Obligations.CallThenRetResumes := by
  intro s rel
  refine ⟨_, _, exec_callRel16 rel s, exec_ret _, ?pc, rfl, fun r => ?regs, rfl⟩
  case pc => exact s.stackTop_push16 _
  case regs => exact s.reg16_dropWord_push16 (s.pcAfter 3) r

end Sys2Proof.Machine
end

section
/-! PROOFS of the statements of spec/45_int_iret.md and spec/60_exceptions.md, section 5: the entry of `INT`, the event,
the return of `IRET`, and the two together, with and without a handler stub (R320 to R325, R354, R363, R364). -/

namespace Sys2Proof.Machine

/-! ### The dispatch -/

/-- The two known vectors and their entry points (45_int_iret.md R321). -/
theorem State.handlerOffset_of_known (s : State) {n : Byte} (known : n = 0x10#8 ∨ n = 0x21#8) :
    s.handlerOffset n = some (if n = 0x10#8 then s.cfg.int10Off else s.cfg.int21Off) := by
  obtain rfl | rfl := known <;> rfl

theorem State.handlerOffset_of_unknown (s : State) {n : Byte} (unknown : ¬(n = 0x10#8 ∨ n = 0x21#8)) :
    s.handlerOffset n = none := by
  unfold State.handlerOffset
  split
  case h_1 h => exact absurd (.inl (BitVec.eq_of_toNat_eq h)) unknown
  case h_2 h => exact absurd (.inr (BitVec.eq_of_toNat_eq h)) unknown
  case h_3 => rfl

/-- Settles O52: the dispatch looks at the vector alone. -/
theorem unknownVectorIsFatal : Obligations.UnknownVectorIsFatal := by
  intro s n
  split
  case isTrue known => exact ⟨_, exec_int_of_handlerOffset (s.handlerOffset_of_known known)⟩
  case isFalse unknown => exact exec_int_of_handlerOffset_eq_none (s.handlerOffset_of_unknown unknown)

/-! ### The entry -/

section
variable (s : State) (n : Byte) (off : Word)

@[simp] theorem State.takeInterrupt_cs : (s.takeInterrupt n off).cs = s.cfg.biosSeg := rfl
@[simp] theorem State.takeInterrupt_ss : (s.takeInterrupt n off).ss = s.ss := rfl
@[simp] theorem State.takeInterrupt_ip : (s.takeInterrupt n off).ip = off := rfl
@[simp] theorem State.takeInterrupt_flags : (s.takeInterrupt n off).flags = { s.flags with idf := true } := rfl
@[simp] theorem State.takeInterrupt_cfg : (s.takeInterrupt n off).cfg = s.cfg := rfl

theorem State.seg_takeInterrupt_of_ne {g : Seg} (h : g ≠ .cs) : (s.takeInterrupt n off).seg g = s.seg g := by
  cases g with
  | cs => exact absurd rfl h
  | ds | es | ss => rfl

@[simp] theorem State.phys_takeInterrupt (x y : Word) : (s.takeInterrupt n off).phys x y = s.phys x y := rfl

theorem State.byteAt_takeInterrupt (a : Word) :
    (s.takeInterrupt n off).byteAt a = (s.enterInterrupt (s.pcAfter 2) s.cfg.biosSeg off).byteAt a := rfl

theorem State.wordAt_takeInterrupt (a : Word) :
    (s.takeInterrupt n off).wordAt a = (s.enterInterrupt (s.pcAfter 2) s.cfg.biosSeg off).wordAt a := rfl

theorem State.takeInterrupt_sp : (s.takeInterrupt n off).reg16 .sp = s.reg16 .sp - 6#16 := by
  rw [State.takeInterrupt, State.reg16_emit, State.enterInterrupt_sp, sub_two_three_times]

theorem State.reg16_takeInterrupt_ne {q : Reg16} (h : q ≠ .sp) : (s.takeInterrupt n off).reg16 q = s.reg16 q := by
  rw [State.takeInterrupt, State.reg16_emit, State.reg16_enterInterrupt_ne _ _ _ _ h]

theorem State.byteAt_takeInterrupt_of_not_mem {a : Word} (h : a ∉ interruptFrame s) :
    (s.takeInterrupt n off).byteAt a = s.byteAt a := by
  rw [State.byteAt_takeInterrupt, State.byteAt_enterInterrupt_of_not_mem _ _ _ _ h]

end

/-- Settles O51: the words of the frame from the new SP up, and the entry's own laws for everything else. -/
theorem intEntersTheHandler : Obligations.IntEntersTheHandler := by
  intro s n known
  obtain ⟨atIp, atCs, atFlags⟩ := s.wordAt_enterInterrupt (s.pcAfter 2) s.cfg.biosSeg
    (if n = 0x10#8 then s.cfg.int10Off else s.cfg.int21Off)
  have four : s.reg16 .sp - 2#16 = s.reg16 .sp - 6#16 + 4#16 := by bv_omega
  have two : s.reg16 .sp - 4#16 = s.reg16 .sp - 6#16 + 2#16 := by bv_omega
  refine ⟨rfl, _, exec_int_of_handlerOffset (s.handlerOffset_of_known known), ?flags, ?cs, ?ip,
    s.takeInterrupt_sp n _, fun r => s.reg16_takeInterrupt_ne n _, s.takeInterrupt_flags n _, s.takeInterrupt_cs n _,
    s.takeInterrupt_ip n _, s.seg_takeInterrupt_of_ne (g := .ds) n _ (by decide),
    s.seg_takeInterrupt_of_ne (g := .es) n _ (by decide), s.takeInterrupt_ss n _,
    s.takeInterrupt_cfg n _, s.takeInterrupt_events n _, fun a => s.byteAt_takeInterrupt_of_not_mem n _⟩
  case flags => rw [State.wordAt_takeInterrupt, four, State.phys_add, atFlags]
  case cs => rw [State.wordAt_takeInterrupt, two, State.phys_add, atCs]
  case ip => rw [State.wordAt_takeInterrupt, atIp]

/-- The default `EVENT_OF` (45_int_iret.md R322, decision D14). -/
theorem State.eventOf_default {s : State} (h : s.cfg.eventChoice = Config.default.eventChoice) (n : Byte) :
    s.eventOf n = if n = 0x21#8 ∧ s.reg8 .ah = 0x02#8 then some (.print (s.reg8 .dl)) else none := by
  rw [State.eventOf, h]
  simp only [Config.default, chooseEvent, eventTestHolds, beq_iff_eq, ← ite_and]
  rfl

/-- Settles O53: a completed `INT` yields the event of its vector. -/
theorem defaultEventPrintsDl : Obligations.DefaultEventPrintsDl := by
  intro s t n choice h
  have events : t.events = s.events ++ (s.eventOf n).toList := by
    cases known : s.handlerOffset n with
    | none => rw [exec_int_of_handlerOffset_eq_none known] at h; cases h
    | some off =>
      rw [exec_int_of_handlerOffset known] at h
      cases h
      rfl
  rw [events, State.eventOf_default choice]
  split
  · rfl
  · exact List.append_nil _

/-! ### The return -/

@[simp] theorem State.returnFromInterrupt_cfg (s : State) : s.returnFromInterrupt.cfg = s.cfg := rfl
@[simp] theorem State.returnFromInterrupt_events (s : State) : s.returnFromInterrupt.events = s.events := rfl

theorem State.seg_returnFromInterrupt_of_ne {g : Seg} (h : g ≠ .cs) (s : State) :
    s.returnFromInterrupt.seg g = s.seg g := by
  cases g with
  | cs => exact absurd rfl h
  | ds | es | ss => rfl

theorem exec_iret (s : State) : exec .iret s = .next s.returnFromInterrupt := rfl

/-- Settles O54: the three words from SP up. -/
theorem iretPopsIpCsFlags : Obligations.IretPopsIpCsFlags := by
  intro s
  have top : s.dropWord.dropWord.stackTop = s.wordAt (s.phys s.ss (s.reg16 .sp + 4#16)) := by
    rw [← add_two_twice]; rfl
  refine ⟨rfl, _, exec_iret s, rfl, rfl, ?image, ?sp, fun r => s.reg16_returnFromInterrupt_ne, rfl, rfl, rfl, rfl, rfl,
    s.byteAt_returnFromInterrupt⟩
  case image =>
    rw [State.returnFromInterrupt_flags, top]
    exact ⟨rfl, rfl, rfl, rfl, rfl⟩
  case sp => rw [State.returnFromInterrupt_sp]; bv_omega

/-- Settles O56: the return reads back the frame of the entry, at the same SP. -/
theorem intThenIretRestores : Obligations.IntThenIretRestores := by
  intro s n known
  have handler := s.handlerOffset_of_known known
  obtain ⟨pc, cs, flags, regs⟩ := State.returnFromInterrupt_of_frame (s.takeInterrupt_sp n _) (s.takeInterrupt_ss n _)
    (s.takeInterrupt_cfg n _) (s.byteAt_takeInterrupt n _) fun q => s.reg16_takeInterrupt_ne n _
  exact ⟨_, _, exec_int_of_handlerOffset handler, exec_iret _, pc, cs, flags, regs⟩

/-! ### The marker and the handler stub -/

theorem exec_nop (s : State) : exec .nop s = .next (s.advance 1) := rfl

/-- Settles O55: the move past the marker changes `pc` alone. -/
theorem markerOnlyAdvances : Obligations.MarkerOnlyAdvances := by
  intro s
  exact ⟨rfl, _, exec_nop s, State.advance_ip .., State.advance_flags .., (Frame.refl s).advance _⟩

theorem State.fetchByte_zero (s : State) : s.fetchByte 0 = s.byteAt (s.phys s.cs s.ip) := by
  rw [State.fetchByte, BitVec.add_zero]

/-- A step at the marker, which is no other recognised first byte, only moves `pc`. -/
theorem step_of_marker {s : State} (other : recognisedFirstByte s.cfg.markerOpcode = false)
    (here : s.byteAt (s.phys s.cs s.ip) = s.cfg.markerOpcode) : step s = .next (s.advance 1) := by
  have first : s.fetchByte 0 = s.cfg.markerOpcode := s.fetchByte_zero.trans here
  refine step_of_decodeNext_eq_ok ((decode_of_recognisedFirstByte_eq_false s.cfg ?_).trans (if_pos first))
  rw [first, other]

/-- A step at the byte of `IRET` returns. -/
theorem step_of_iret {s : State} (here : s.byteAt (s.phys s.cs s.ip) = 0xCF#8) :
    step s = .next s.returnFromInterrupt := by
  have decoded : s.decodeNext = .ok .iret := by
    rw [State.decodeNext, decode, s.fetchByte_zero, here]; rfl
  exact step_of_decodeNext_eq_ok decoded

/-- Settles O57: the entry, the marker, and the return, which finds the frame where the entry put it; the stub is still
there, since the frame does not lie on it. -/
theorem stubbedIntCostsThreeSteps : Obligations.StubbedIntCostsThreeSteps := by
  intro s n off decoded handler marker atMarker atIret markerApart iretApart
  have entry : step s = .next (s.takeInterrupt n off) :=
    (step_of_decodeNext_eq_ok decoded).trans (exec_int_of_handlerOffset handler)
  have past : step (s.takeInterrupt n off) = .next ((s.takeInterrupt n off).advance 1) := by
    refine step_of_marker (by rwa [State.takeInterrupt_cfg]) ?_
    rw [State.takeInterrupt_cs, State.takeInterrupt_ip, State.phys_takeInterrupt,
      State.byteAt_takeInterrupt_of_not_mem _ _ _ markerApart, atMarker, State.takeInterrupt_cfg]
  have back : step ((s.takeInterrupt n off).advance 1) =
      .next ((s.takeInterrupt n off).advance 1).returnFromInterrupt := by
    refine step_of_iret ?_
    rw [State.byteAt_advance, State.phys_advance, State.advance_cs, State.advance_ip, State.pcAfter,
      State.takeInterrupt_cs, State.takeInterrupt_ip, State.phys_takeInterrupt,
      State.byteAt_takeInterrupt_of_not_mem _ _ _ iretApart, atIret]
  obtain ⟨pc, cs, flags, regs⟩ := State.returnFromInterrupt_of_frame (s := s) (r := s.pcAfter 2) (c := s.cfg.biosSeg)
    (o := off) (t := (s.takeInterrupt n off).advance 1) (by rw [State.reg16_advance, State.takeInterrupt_sp])
    (by rw [State.advance_ss, State.takeInterrupt_ss]) (by rw [State.advance_cfg, State.takeInterrupt_cfg])
    (fun a => by rw [State.byteAt_advance, State.byteAt_takeInterrupt])
    fun q hq => by rw [State.reg16_advance, State.reg16_takeInterrupt_ne _ _ _ hq]
  refine ⟨_, _, _, entry, past, back, pc, flags, regs, fun g => ?segs, ?cfg, ?events, fun a outside => ?bytes⟩
  case segs =>
    by_cases code : g = .cs
    · subst code; exact cs
    · rw [State.seg_returnFromInterrupt_of_ne code, State.seg_advance, State.seg_takeInterrupt_of_ne _ _ _ code]
  case cfg => rw [State.returnFromInterrupt_cfg, State.advance_cfg, State.takeInterrupt_cfg]
  case events => rw [State.returnFromInterrupt_events, State.advance_events, State.takeInterrupt_events]
  case bytes =>
    rw [State.byteAt_returnFromInterrupt, State.byteAt_advance, State.byteAt_takeInterrupt_of_not_mem _ _ _ outside]

end Sys2Proof.Machine
end

section
/-! PROOFS of the statements of spec/41_add_sub_mul_div.md, sections 4 and 5: the products are exact, and a division
ends in its quotient and remainder or in `DivideError` (R201 to R207). -/

namespace Sys2Proof.Machine

open Laws

/-! ### MUL -/

/-- The product of two bytes fits in a word. -/
theorem toNat_zext16_mul_zext16 (a b : Byte) : (zext16 a * zext16 b).toNat = a.toNat * b.toNat := by
  have ha : (zext16 a).toNat = a.toNat := BitVec.toNat_setWidth_of_le (by decide)
  have hb : (zext16 b).toNat = b.toNat := BitVec.toNat_setWidth_of_le (by decide)
  have fits : a.toNat * b.toNat < 2 ^ 8 * 2 ^ 8 := Nat.mul_lt_mul'' a.isLt b.isLt
  rw [BitVec.toNat_mul_of_lt (by rw [ha, hb]; exact fits), ha, hb]

/-- The product of two words fits in 32 bits. -/
theorem toNat_zext32_mul_zext32 (a b : Word) : (zext32 a * zext32 b).toNat = a.toNat * b.toNat := by
  have ha : (zext32 a).toNat = a.toNat := BitVec.toNat_setWidth_of_le (by decide)
  have hb : (zext32 b).toNat = b.toNat := BitVec.toNat_setWidth_of_le (by decide)
  have fits : a.toNat * b.toNat < 2 ^ 16 * 2 ^ 16 := Nat.mul_lt_mul'' a.isLt b.isLt
  rw [BitVec.toNat_mul_of_lt (by rw [ha, hb]; exact fits), ha, hb]

/-- A 32-bit value is its two words. -/
theorem toNat_extractLsb'_words (p : BitVec 32) :
    65536 * (p.extractLsb' 16 16).toNat + (p.extractLsb' 0 16).toNat = p.toNat := by
  have := p.isLt
  simp only [BitVec.extractLsb'_toNat, Nat.shiftRight_eq_div_pow]
  omega

theorem bne_eq_decide_ne {α : Type} [DecidableEq α] (a b : α) : (a != b) = decide (a ≠ b) := by
  rw [Bool.eq_iff_iff, bne_iff_ne, decide_eq_true_iff]

theorem exec_mulRm8 (rm : RM8) (s : State) :
    exec (.mulRm8 rm) s = .next (((s.setReg16 .ax (zext16 (s.reg8 .al) * zext16 (s.readRm8 rm))).setMulFlags
      (hi8 (zext16 (s.reg8 .al) * zext16 (s.readRm8 rm)) != 0#8)).advance (2 + rm.dispLen)) := rfl

/-- Settles O31: AX takes the product, whose high byte AH then is. -/
theorem mulByteIsTheExactProduct : Obligations.MulByteIsTheExactProduct := by
  intro s rm
  refine ⟨rfl, _, exec_mulRm8 rm s, ?product, ?cf, ?of, rfl, rfl, ?frame⟩
  case product =>
    rw [State.reg16_advance, State.reg16_setMulFlags, State.reg16_setReg16_same, toNat_zext16_mul_zext16]
  case cf | of => exact bne_eq_decide_ne ..
  case frame => exact ((frame_setReg16 s .ax _).setMulFlags _).advance _

theorem exec_mulRm16 (rm : RM16) (s : State) :
    exec (.mulRm16 rm) s =
      .next ((((s.setReg16 .ax ((zext32 (s.reg16 .ax) * zext32 (s.readRm16 rm)).extractLsb' 0 16)).setReg16 .dx
        ((zext32 (s.reg16 .ax) * zext32 (s.readRm16 rm)).extractLsb' 16 16)).setMulFlags
          ((zext32 (s.reg16 .ax) * zext32 (s.readRm16 rm)).extractLsb' 16 16 != 0#16)).advance (2 + rm.dispLen)) := rfl

/-- Settles O32: AX and DX take the two words of the product. -/
theorem mulWordIsTheExactProduct : Obligations.MulWordIsTheExactProduct := by
  intro s rm
  refine ⟨rfl, _, exec_mulRm16 rm s, ?product, ?cf, ?of, rfl, rfl, ?frame⟩
  case product =>
    rw [← toNat_zext32_mul_zext32, ← toNat_extractLsb'_words]; rfl
  case cf | of => exact bne_eq_decide_ne ..
  case frame => exact (((frame_setReg16 s .ax _).trans (frame_setReg16 _ .dx _)).setMulFlags _).advance _

/-! ### The end of a division -/

theorem toNat_ofNat_of_lt {n k : Nat} (h : k < 2 ^ n) : (BitVec.ofNat n k).toNat = k := by
  rw [BitVec.toNat_ofNat, Nat.mod_eq_of_lt h]

/-- A byte division that ends in `q` and `r` leaves in AL and AH what these read as, unsigned or signed. -/
theorem divides_of_exec_eq_finishDiv8 {β : Type} {s : State} {i : Instr} {bytes : List Byte} {op q r : Byte}
    {read : Byte → β} {quotient remainder : β} (len : EncodedLength.Statement i) (code : encode s.cfg i = bytes)
    (run : exec i s = finishDiv8 op i.length (some (q, r)) s) (hq : read q = quotient) (hr : read r = remainder) :
    Divides s i bytes (fun t x => read (t.reg8 x)) .al .ah quotient remainder [.ax] := by
  have past : i.length = bytes.length := by rw [← code, (len s.cfg).1]
  refine ⟨_, run, ?quotient, ?remainder, rfl, ?pc, ?frame⟩
  case quotient =>
    beta_reduce
    rw [State.reg8_advance, State.reg8_setDivFlags, State.reg8_setReg8_ne _ _ (by decide), State.reg8_setReg8_same, hq]
  case remainder =>
    beta_reduce
    rw [State.reg8_advance, State.reg8_setDivFlags, State.reg8_setReg8_same, hr]
  case pc => rw [State.advance_ip, State.pcAfter_setDivFlags, State.pcAfter_setReg8, State.pcAfter_setReg8, past]
  case frame =>
    exact ((((frame_setReg8 s .al q).trans (frame_setReg8 _ .ah r)).setDivFlags).advance _).mono (by simp [whole])
      (by simp)

/-- The same for a word division, in AX and DX. -/
theorem divides_of_exec_eq_finishDiv16 {β : Type} {s : State} {i : Instr} {bytes : List Byte} {op : Byte} {q r : Word}
    {read : Word → β} {quotient remainder : β} (len : EncodedLength.Statement i) (code : encode s.cfg i = bytes)
    (run : exec i s = finishDiv16 op i.length (some (q, r)) s) (hq : read q = quotient) (hr : read r = remainder) :
    Divides s i bytes (fun t x => read (t.reg16 x)) .ax .dx quotient remainder [.ax, .dx] := by
  have past : i.length = bytes.length := by rw [← code, (len s.cfg).1]
  refine ⟨_, run, ?quotient, ?remainder, rfl, ?pc, ?frame⟩
  case quotient =>
    beta_reduce
    rw [State.reg16_advance, State.reg16_setDivFlags, State.reg16_setReg16_ne _ _ (by decide),
      State.reg16_setReg16_same, hq]
  case remainder =>
    beta_reduce
    rw [State.reg16_advance, State.reg16_setDivFlags, State.reg16_setReg16_same, hr]
  case pc => rw [State.advance_ip, State.pcAfter_setDivFlags, State.pcAfter_setReg16, State.pcAfter_setReg16, past]
  case frame => exact ((frame_setReg16 s .ax q).trans (frame_setReg16 _ .dx r)).setDivFlags.advance _

/-! ### DIV -/

theorem divUnsigned_eq_none {most n d : Nat} (h : d = 0 ∨ most < n / d) : divUnsigned most n d = none := by
  unfold divUnsigned
  obtain rfl | big := h
  · rfl
  · rw [if_pos big, ite_self]

theorem divUnsigned_eq_some {most n d : Nat} (h : ¬(d = 0 ∨ most < n / d)) :
    divUnsigned most n d = some (n / d, n % d) := by
  rw [not_or] at h
  rw [divUnsigned, if_neg h.1, if_neg h.2]

/-- Settles O33: both fit in a byte, the remainder since it is below the divisor. -/
theorem divByteQuotientAndRemainder : Obligations.DivByteQuotientAndRemainder := by
  intro s rm n d bytes
  have run : exec (.divRm8 rm) s = finishDiv8 0xF6#8 (Instr.length (.divRm8 rm))
      ((divUnsigned 255 n d).map fun qr => (BitVec.ofNat 8 qr.1, BitVec.ofNat 8 qr.2)) s := rfl
  refine ⟨rfl, ?_⟩
  split
  case isTrue stops => rw [run, divUnsigned_eq_none stops]; rfl
  case isFalse divides =>
    rw [divUnsigned_eq_some divides] at run
    have small : d < 256 := (s.readRm8 rm).isLt
    have below : n % d < d := Nat.mod_lt _ (by omega)
    exact divides_of_exec_eq_finishDiv8 (read := BitVec.toNat) (EncodedLength.divRm8 rm) rfl run
      (toNat_ofNat_of_lt (by omega))
      (toNat_ofNat_of_lt (by omega))

/-- Settles O34: the dividend is the pair, and both results fit in a word. -/
theorem divWordQuotientAndRemainder : Obligations.DivWordQuotientAndRemainder := by
  intro s rm n d bytes
  have pair : s.dividend32.toNat = n := by
    rw [State.dividend32, BitVec.toNat_append, ← Nat.shiftLeft_add_eq_or_of_lt (s.reg16 .ax).isLt, Nat.shiftLeft_eq,
      Nat.mul_comm]
  have run : exec (.divRm16 rm) s = finishDiv16 0xF7#8 (Instr.length (.divRm16 rm))
      ((divUnsigned 65535 n d).map fun qr => (BitVec.ofNat 16 qr.1, BitVec.ofNat 16 qr.2)) s := by
    rw [← pair]; rfl
  refine ⟨rfl, ?_⟩
  split
  case isTrue stops => rw [run, divUnsigned_eq_none stops]; rfl
  case isFalse divides =>
    rw [divUnsigned_eq_some divides] at run
    have small : d < 65536 := (s.readRm16 rm).isLt
    have below : n % d < d := Nat.mod_lt _ (by omega)
    exact divides_of_exec_eq_finishDiv16 (read := BitVec.toNat) (EncodedLength.divRm16 rm) rfl run
      (toNat_ofNat_of_lt (by omega))
      (toNat_ofNat_of_lt (by omega))

/-! ### IDIV -/

theorem divSigned_eq_none {most n d : Int} (h : d = 0 ∨ most < n.tdiv d ∨ n.tdiv d < -most) :
    divSigned most n d = none := by
  unfold divSigned
  obtain rfl | outside := h
  · rfl
  · rw [if_pos outside, ite_self]

theorem divSigned_eq_some {most n d : Int} (h : ¬(d = 0 ∨ most < n.tdiv d ∨ n.tdiv d < -most)) :
    divSigned most n d = some (n.tdiv d, n.tmod d) := by
  rw [not_or] at h
  rw [divSigned, if_neg h.1, if_neg h.2, Int.tmod_def, mul_comm]

/-- The remainder of a signed division is less than the divisor in absolute value. -/
theorem abs_tmod_lt (n : Int) {d m : Int} (nonzero : d ≠ 0) (low : -m ≤ d) (high : d ≤ m) :
    -m < n.tmod d ∧ n.tmod d < m := by
  have size := Int.natAbs_tmod n d
  have below : n.natAbs % d.natAbs < d.natAbs := Nat.mod_lt _ (Int.natAbs_pos.mpr nonzero)
  omega

/-- Settles O35: the quotient fits since it is in range, the remainder since it is smaller than the divisor. -/
theorem idivByteQuotientAndRemainder : Obligations.IdivByteQuotientAndRemainder := by
  intro s rm n d bytes
  have run : exec (.idivRm8 rm) s = finishDiv8 0xF6#8 (Instr.length (.idivRm8 rm))
      ((divSigned 127 n d).map fun qr => (BitVec.ofInt 8 qr.1, BitVec.ofInt 8 qr.2)) s := rfl
  refine ⟨rfl, ?_⟩
  split
  case isTrue stops => rw [run, divSigned_eq_none stops]; rfl
  case isFalse divides =>
    rw [divSigned_eq_some divides] at run
    obtain ⟨low, high⟩ := abs_tmod_lt n (d := d) (m := 2 ^ 7) (by omega) (s.readRm8 rm).le_toInt
      (Int.le_of_lt (s.readRm8 rm).toInt_lt)
    exact divides_of_exec_eq_finishDiv8 (read := BitVec.toInt) (EncodedLength.idivRm8 rm) rfl run
      (BitVec.toInt_ofInt_eq_self (by decide) (by omega) (by omega))
      (BitVec.toInt_ofInt_eq_self (by decide) (by omega) (by omega))

/-- Settles O36: as O35, on the signed pair. -/
theorem idivWordQuotientAndRemainder : Obligations.IdivWordQuotientAndRemainder := by
  intro s rm n d bytes
  have run : exec (.idivRm16 rm) s = finishDiv16 0xF7#8 (Instr.length (.idivRm16 rm))
      ((divSigned 32767 n d).map fun qr => (BitVec.ofInt 16 qr.1, BitVec.ofInt 16 qr.2)) s := rfl
  refine ⟨rfl, ?_⟩
  split
  case isTrue stops => rw [run, divSigned_eq_none stops]; rfl
  case isFalse divides =>
    rw [divSigned_eq_some divides] at run
    obtain ⟨low, high⟩ := abs_tmod_lt n (d := d) (m := 2 ^ 15) (by omega) (s.readRm16 rm).le_toInt
      (Int.le_of_lt (s.readRm16 rm).toInt_lt)
    exact divides_of_exec_eq_finishDiv16 (read := BitVec.toInt) (EncodedLength.idivRm16 rm) rfl run
      (BitVec.toInt_ofInt_eq_self (by decide) (by omega) (by omega))
      (BitVec.toInt_ofInt_eq_self (by decide) (by omega) (by omega))

end Sys2Proof.Machine
end

section
/-! PROOFS of the statement of spec/43_jumps_loop.md, section 3, on what the conditional jumps compare after `SUB a, b`
(R253, column "meaning after `SUB a, b`"). -/

namespace Sys2Proof.Machine

open Laws

/-- CF after a subtraction is the unsigned comparison, ZF the equality. -/
theorem DifferenceFlags.cf_iff {n : Nat} {s t : State} {a b : BitVec n} (h : DifferenceFlags s t a b) :
    t.flags.cf = true ↔ a.toNat < b.toNat := by
  obtain ⟨cf, -⟩ := h
  rw [cf, decide_eq_true_iff]

theorem DifferenceFlags.zf_iff {n : Nat} {s t : State} {a b : BitVec n} (h : DifferenceFlags s t a b) :
    t.flags.zf = true ↔ a = b := by
  obtain ⟨-, zf, -⟩ := h
  rw [zf, decide_eq_true_iff]
  exact sub_eq_zero

/-- SF and OF differ exactly when the signed difference is below zero: in range SF is its sign, out of range the result
has the other sign. -/
theorem DifferenceFlags.sf_ne_of_iff {n : Nat} {s t : State} {a b : BitVec n} (width : n = 8 ∨ n = 16)
    (h : DifferenceFlags s t a b) : t.flags.sf ≠ t.flags.of ↔ a.toInt < b.toInt := by
  obtain ⟨-, -, sf, of, -⟩ := h
  have sign : t.flags.sf = true ↔ (a.toInt - b.toInt).bmod (2 ^ n) < 0 := by
    rw [sf, BitVec.msb_eq_toInt, decide_eq_true_iff, BitVec.toInt_sub]
  have ha := a.le_toInt
  have ha' := a.toInt_lt
  have hb := b.le_toInt
  have hb' := b.toInt_lt
  rw [ne_eq, Bool.eq_iff_iff, sign, of, Int.bmod_def]
  obtain rfl | rfl := width
  all_goals
    norm_num at *
    split <;> omega

/-- A conditional jump whose condition, as the model computes it, says `p`. -/
theorem transfers_of_condition_iff {s : State} {i : Instr} {bytes : List Byte} {cond : Bool} {p : Prop} [Decidable p]
    {rel : Byte} (len : EncodedLength.Statement i) (code : encode s.cfg i = bytes)
    (run : exec i s = condJump cond i.length rel s) (condition : cond = true ↔ p) :
    Transfers s i bytes (decide p) (BitVec.ofInt 16 rel.toInt) :=
  transfers_of_exec_eq_condJump len code run (by rw [Bool.eq_iff_iff, condition, decide_eq_true_iff])

/-- Settles O42: each jump runs on the condition of its name, which CF, ZF and the comparison of SF with OF make one of
`a` and `b`. -/
theorem jccAfterSubComparesOperands : Obligations.JccAfterSubComparesOperands := by
  intro n s a b rel width flags
  have below : s.flags.cf = true ↔ a.toNat < b.toNat := flags.cf_iff
  have notBelow : s.flags.cf = false ↔ b.toNat ≤ a.toNat := by rw [← Bool.not_eq_true, below, Nat.not_lt]
  have zero : s.flags.zf = true ↔ a = b := flags.zf_iff
  have notZero : s.flags.zf = false ↔ a ≠ b := by rw [← Bool.not_eq_true, zero]
  have less : s.flags.sf ≠ s.flags.of ↔ a.toInt < b.toInt := flags.sf_ne_of_iff width
  have notLess : s.flags.sf = s.flags.of ↔ b.toInt ≤ a.toInt := by rw [← Int.not_lt, ← less, not_not]
  refine ⟨?jc, ?jnc, ?jz, ?jnz, ?jna, ?ja, ?jl, ?jge, ?jle, ?jg⟩
  case jc =>
    exact transfers_of_condition_iff (EncodedLength.jc rel) rfl rfl (by rw [Flags.condJc, below])
  case jnc =>
    exact transfers_of_condition_iff (EncodedLength.jnc rel) rfl rfl (by
      rw [Flags.condJnc, Bool.not_eq_true', notBelow])
  case jz =>
    exact transfers_of_condition_iff (EncodedLength.jz rel) rfl rfl (by rw [Flags.condJz, zero])
  case jnz =>
    exact transfers_of_condition_iff (EncodedLength.jnz rel) rfl rfl (by
      rw [Flags.condJnz, Bool.not_eq_true', notZero])
  case jna =>
    exact transfers_of_condition_iff (EncodedLength.jna rel) rfl rfl (by
      rw [Flags.condJna, Bool.or_eq_true, below, zero, ← BitVec.toNat_inj, ← Nat.le_iff_lt_or_eq])
  case ja =>
    exact transfers_of_condition_iff (EncodedLength.ja rel) rfl rfl (by
      rw [Flags.condJa, Bool.and_eq_true, Bool.not_eq_true', Bool.not_eq_true', notBelow, notZero, ne_eq,
        ← BitVec.toNat_inj]
      omega)
  case jl =>
    exact transfers_of_condition_iff (EncodedLength.jl rel) rfl rfl (by rw [Flags.condJl, bne_iff_ne, less])
  case jge =>
    exact transfers_of_condition_iff (EncodedLength.jge rel) rfl rfl (by rw [Flags.condJge, beq_iff_eq, notLess])
  case jle =>
    exact transfers_of_condition_iff (EncodedLength.jle rel) rfl rfl (by
      rw [Flags.condJle, Bool.or_eq_true, bne_iff_ne, less, zero, ← BitVec.toInt_inj]
      omega)
  case jg =>
    exact transfers_of_condition_iff (EncodedLength.jg rel) rfl rfl (by
      rw [Flags.condJg, Bool.and_eq_true, Bool.not_eq_true', beq_iff_eq, notLess, notZero, ne_eq, ← BitVec.toInt_inj]
      omega)

end Sys2Proof.Machine
end

section
/-! PROOFS of the statement of spec/30_encoding.md, section 5, on redundant encodings (R120): two encodings of one
operation run as the same updates, and a memory operand is its address. -/

namespace Sys2Proof.Machine

/-- Two instructions that complete with the same updates, each moving past its own bytes, do the same but for `pc`. -/
theorem sameButForPc_of_exec_eq_next {s t u : State} {i j : Instr} {m n : Nat} (runI : exec i s = .next (t.advance m))
    (runJ : exec j s = .next (u.advance n)) (same : t = u) : SameButForPc s i j := by
  rw [SameButForPc, runI, runJ, same]; rfl

/-- So do two byte divisions with the same results. -/
theorem sameButForPc_of_exec_eq_finishDiv8 {s : State} {i j : Instr} {m n : Nat} {op : Byte}
    {o p : Option (Byte × Byte)} (runI : exec i s = finishDiv8 op m o s) (runJ : exec j s = finishDiv8 op n p s)
    (same : o = p) : SameButForPc s i j := by
  rw [SameButForPc, runI, runJ, same]
  cases p <;> rfl

theorem sameButForPc_of_exec_eq_finishDiv16 {s : State} {i j : Instr} {m n : Nat} {op : Byte}
    {o p : Option (Word × Word)} (runI : exec i s = finishDiv16 op m o s) (runJ : exec j s = finishDiv16 op n p s)
    (same : o = p) : SameButForPc s i j := by
  rw [SameButForPc, runI, runJ, same]
  cases p <;> rfl

section
variable {s : State} {m n : MemOp}

theorem sameButForPc_formsRm8 (address : s.operandAddress m = s.operandAddress n) (r : Reg8) (imm : Byte) :
    ∀ form ∈ formsRm8 r imm, SameButForPc s (form (.mem m)) (form (.mem n)) := by
  have read : s.readRm8 (.mem m) = s.readRm8 (.mem n) := congrArg s.byteAt address
  have write : ∀ v, s.writeRm8 (.mem m) v = s.writeRm8 (.mem n) v := fun v => congrArg (s.setByte · v) address
  have arith : ∀ alu b, arithRm8 alu (.mem m) b s = arithRm8 alu (.mem n) b s := fun alu b => by
    rw [arithRm8, arithRm8, read, write]
  have step : ∀ alu, stepRm8 alu (.mem m) s = stepRm8 alu (.mem n) s := fun alu => by
    rw [stepRm8, stepRm8, read, write]
  simp only [formsRm8, List.forall_mem_cons]
  refine ⟨?mov, ?movTo, ?movImm, ?add, ?addTo, ?addImm, ?sub, ?subTo, ?subImm, ?mul, ?div, ?idiv, ?inc, ?dec, by simp⟩
  case mov | movImm => exact sameButForPc_of_exec_eq_next rfl rfl (write _)
  case movTo => exact sameButForPc_of_exec_eq_next rfl rfl (congrArg (s.setReg8 r) read)
  case add | addImm | sub | subImm => exact sameButForPc_of_exec_eq_next rfl rfl (arith _ _)
  case addTo | subTo => exact sameButForPc_of_exec_eq_next rfl rfl (congrArg (arithRm8 _ (.reg r) · s) read)
  case mul => exact sameButForPc_of_exec_eq_next rfl rfl (by rw [read])
  case div | idiv => exact sameButForPc_of_exec_eq_finishDiv8 rfl rfl (by rw [read])
  case inc | dec => exact sameButForPc_of_exec_eq_next rfl rfl (step _)

theorem sameButForPc_formsRm16 (address : s.operandAddress m = s.operandAddress n) (r : Reg16) (imm : Word)
    (imm8 : Byte) : ∀ form ∈ formsRm16 r imm imm8, SameButForPc s (form (.mem m)) (form (.mem n)) := by
  have read : s.readRm16 (.mem m) = s.readRm16 (.mem n) := congrArg s.wordAt address
  have write : ∀ v, s.writeRm16 (.mem m) v = s.writeRm16 (.mem n) v := fun v => congrArg (s.setWord · v) address
  have arith : ∀ alu b, arithRm16 alu (.mem m) b s = arithRm16 alu (.mem n) b s := fun alu b => by
    rw [arithRm16, arithRm16, read, write]
  have step : ∀ alu, stepRm16 alu (.mem m) s = stepRm16 alu (.mem n) s := fun alu => by
    rw [stepRm16, stepRm16, read, write]
  simp only [formsRm16, List.forall_mem_cons]
  refine ⟨?mov, ?movTo, ?movImm, ?add, ?addTo, ?addImm, ?addImm8, ?sub, ?subTo, ?subImm, ?subImm8, ?mul, ?div, ?idiv,
    ?inc, ?dec, by simp⟩
  case mov | movImm => exact sameButForPc_of_exec_eq_next rfl rfl (write _)
  case movTo => exact sameButForPc_of_exec_eq_next rfl rfl (congrArg (s.setReg16 r) read)
  case add | addImm | addImm8 | sub | subImm | subImm8 => exact sameButForPc_of_exec_eq_next rfl rfl (arith _ _)
  case addTo | subTo => exact sameButForPc_of_exec_eq_next rfl rfl (congrArg (arithRm16 _ (.reg r) · s) read)
  case mul => exact sameButForPc_of_exec_eq_next rfl rfl (by rw [read])
  case div | idiv => exact sameButForPc_of_exec_eq_finishDiv16 rfl rfl (by rw [read])
  case inc | dec => exact sameButForPc_of_exec_eq_next rfl rfl (step _)

/-- Every form reads and writes a memory operand at its address alone. -/
theorem sameOperand_of_operandAddress_eq (address : s.operandAddress m = s.operandAddress n) : SameOperand s m n :=
  ⟨sameButForPc_formsRm8 address, sameButForPc_formsRm16 address⟩

end

/-- Settles O30: the pairs without a memory operand run as the same updates, and a displacement of 0, or a byte beside
the word it extends to, does not change the address. -/
theorem redundantEncodingsMeanTheSame : Obligations.RedundantEncodingsMeanTheSame := by
  intro s a b x y rm base imm off imm8
  have zero : s.operandAddress (.disp8 base 0#8) = s.operandAddress (.base base) :=
    congrArg (s.phys _) (BitVec.add_zero _)
  have extended : s.operandAddress (.disp8 base imm8) = s.operandAddress (.disp16 base (sext16 imm8)) := rfl
  exact ⟨rfl, rfl, rfl, rfl, rfl, rfl, rfl, rfl, rfl, rfl, rfl, rfl, rfl, rfl, rfl, rfl, rfl, rfl, rfl, rfl, rfl, rfl,
    fun _ => sameOperand_of_operandAddress_eq zero, sameOperand_of_operandAddress_eq extended⟩

end Sys2Proof.Machine
end
